-- ==== Sys2Proof/Word.lean ====
section
/-! DEFINITION. The byte and the five-valued status: the plainest types the rest is written over. -/

namespace Sys2Proof

/-- A byte (`u8`, 00_scope.md R10); bits numbered 7 down to 0 (R11). -/
abbrev Byte := BitVec 8

/-- The five values of the decoder's `status` register (10_state.md R21). -/
inductive Status where
  | idle
  | incomplete
  | valid
  | errorHash
  | errorOverflow
  deriving DecidableEq, Repr, Inhabited

end Sys2Proof
end

