-- ==== Sys2Proof/Config.lean ====
section
/-! DEFINITION. What a build of the block fixes (00_scope.md R5 to R9) and the free values.
`Config` is plain data; a state carries the build it belongs to (log 4), so a statement about every
state is a statement about every build. -/

namespace Sys2Proof

/-- `MIN_FRAME_SIZE` (R5): sync byte and the two header bytes. -/
def minFrameSize : Nat := 3

/-- `HASH_IMPL` (R8): which form of the CRC engines the build contains. -/
inductive HashImpl where
  | bitwise
  | table
  deriving DecidableEq, Repr

/-- The parameters of one CRC engine of `w` bits (42_hash_engine.md R152), as the engine's registers hold them:
`feedback` is the generator without its top term, bit-reversed where `reflected` is set
(`0x8C` for `0x31`, R143); `reflected` is `refin = refout` (log 27). -/
structure CrcParams (w : Nat) where
  feedback  : BitVec w
  init      : BitVec w
  reflected : Bool
  xorout    : BitVec w
  deriving DecidableEq, Repr

/-- The unit behind the user-hash port (R9, R146): the weak default is `constant 0` (R273);
`linked n` is a unit the spec says nothing of, a free function (log 12). -/
inductive UserHashUnit where
  | constant (value : Nat)
  | linked (unit : Nat)
  deriving DecidableEq, Repr

/-- The build's parameters (R6, R8, R9). `userHashSize` is 0 to 4 by its type (D12, U2) and `hashFirstIndex`
0 or 1 (R148, D11). -/
structure Config where
  sync           : Byte
  userHashSize   : Fin 5
  maxFrameSize   : Nat
  hashFirstIndex : Fin 2
  hashImpl       : HashImpl
  checksumInit   : Byte
  crc8           : CrcParams 8
  crc16          : CrcParams 16
  crc32          : CrcParams 32
  userHash       : UserHashUnit
  deriving DecidableEq, Repr

/-- The parameter values the spec takes (R6, R142 to R145). `sync`, the checksum and the CRCs are PRESUMED, from
general knowledge (log 5 to 9); `hashFirstIndex` DEDUCED (log 10); `userHashSize` (log 11) and `hashImpl` (log 4)
DESIGN CHOICE. -/
def Config.standard : Config where
  sync           := 0x54
  userHashSize   := 0
  maxFrameSize   := 528
  hashFirstIndex := 1
  hashImpl       := .bitwise
  checksumInit   := 0x00
  crc8           := { feedback := 0x8C, init := 0x00, reflected := true, xorout := 0x00 }
  crc16          := { feedback := 0x1021, init := 0x0000, reflected := false, xorout := 0x0000 }
  crc32          := { feedback := 0xEDB88320, init := 0xFFFFFFFF, reflected := true, xorout := 0xFFFFFFFF }
  userHash       := .constant 0

/-- The builds the spec covers: `MAX_FRAME_SIZE` is 528, or the size `M` of a smaller buffer memory, `3 ≤ M < 528`
(R180, log 13). -/
abbrev Config.wf (c : Config) : Prop := minFrameSize ≤ c.maxFrameSize ∧ c.maxFrameSize ≤ 528

/-- The functions a linked user-hash unit may compute: uninterpreted (log 12). -/
opaque Config.linkedHash : Nat → List Byte → Nat

/-- Free value: the stored status of a software Frame after a rejected ENCAPSULATE (U18, log 19). -/
opaque Config.rejectedStatus : Nat → Status

end Sys2Proof
end

