-- ==== Sys2Proof/Syntax.lean ====
section
/-! DEFINITION. The operations of the block, one constructor per row of spec/opcode_table.json, and their operand
records. -/

namespace Sys2Proof

/-- `HeaderFields` (00_scope.md R17): the seven fields of the header word, each as wide as its field (R5). -/
structure HeaderFields where
  dab : BitVec 2
  sab : BitVec 2
  pfb : BitVec 2
  ack : BitVec 2
  cmd : BitVec 1
  edm : BitVec 3
  ndb : BitVec 4
  deriving DecidableEq, Repr

/-- `PaddingPlacement` (R210). -/
inductive Placement where
  | before
  | after
  deriving DecidableEq, Repr

/-- `EncapsulationRequest` (R210): the header fields without `ndb`, the addresses and flags as naturals, the payload
and the placement of its padding. -/
structure Request where
  dab           : BitVec 2
  sab           : BitVec 2
  pfb           : BitVec 2
  ack           : BitVec 2
  cmd           : BitVec 1
  edm           : BitVec 3
  destAddress   : Nat
  sourceAddress : Nat
  protocolFlags : Nat
  data          : List Byte
  placement     : Placement
  deriving DecidableEq, Repr

/-- The operation set (30_encoding.md R90), row by row. An operand the block ignores (`x` in R91 and in the code
rows) is no argument (log 32). -/
inductive Instr where
  -- commands, format CMD18 (R91)
  | decode (b : Byte)
  | reset
  | init (c : BitVec 16)
  | calchash
  -- header functions, format HDR16 (R83)
  | unpack (hdb2 hdb1 : Byte)
  | pack (f : HeaderFields)
  | widths (f : HeaderFields)
  | totalsize (f : HeaderFields)
  | offsets (f : HeaderFields)
  -- edm codes (R92); `d` is the byte sequence the method hashes
  | edmNone
  | edmRetx3
  | checksum8 (d : List Byte)
  | crc8 (d : List Byte)
  | crc16 (d : List Byte)
  | crc32 (d : List Byte)
  | edmFec
  | userhash (d : List Byte)
  -- ndb codes (R93)
  | ndb0
  | ndb1
  | ndb2
  | ndb3
  | ndb4
  | ndb5
  | ndb6
  | ndb7
  | ndb8
  | ndb9
  | ndb10
  | ndb11
  | ndb12
  | ndb13
  | ndb14
  | ndb15
  -- functions without a command word, format FUNC
  | tosize (ndb : BitVec 4)
  | fromsize (dataSize : Nat)
  | hashsize (edm : BitVec 3)
  | hash (edm : BitVec 3) (d : List Byte)
  | crc8Table (d : List Byte)
  | crc16Table (d : List Byte)
  | crc32Table (d : List Byte)
  -- software around the block, formats SOFT and SEL3 (45_software_collaborators.md)
  | encapsulate (capacity : BitVec 16) (q : Request)
  | getfieldHeader
  | getfieldDestAddress
  | getfieldSourceAddress
  | getfieldProtocolFlags
  | getfieldData
  | getfieldHash
  | getfieldInvalid
  | removepadding (placement : Placement) (p : List Byte)
  deriving DecidableEq, Repr

end Sys2Proof
end

