-- ==== Sys2Proof/WellFormed.lean ====
section
/-! DEFINITION. Which operations fit the model's operation packet (log 1): the sizes a packet can carry. An operation
that does not fit still has its meaning; no packet stands for it. -/

namespace Sys2Proof

/-- A byte sequence's length fits the packet's two length bytes. -/
def bytesFit (d : List Byte) : Bool := decide (d.length < 65536)

/-- An address or flags operand fits the packet's four bytes (log 30). -/
def addressFits (v : Nat) : Bool := decide (v < 2 ^ 32)

/-- A size operand fits the packet's 24-bit word (log 29). -/
def sizeFits (n : Nat) : Bool := decide (n < 2 ^ 24)

/-- The request's naturals and payload fit the packet. -/
def Request.wellFormed (q : Request) : Bool :=
  addressFits q.destAddress && addressFits q.sourceAddress && addressFits q.protocolFlags && bytesFit q.data

/-- The operation fits a packet. -/
def Instr.wellFormed : Instr → Bool
  | .decode _ | .reset | .init _ | .calchash => true
  | .unpack _ _ | .pack _ | .widths _ | .totalsize _ | .offsets _ => true
  | .edmNone | .edmRetx3 | .edmFec => true
  | .checksum8 d | .crc8 d | .crc16 d | .crc32 d | .userhash d => bytesFit d
  | .ndb0 | .ndb1 | .ndb2 | .ndb3 | .ndb4 | .ndb5 | .ndb6 | .ndb7 => true
  | .ndb8 | .ndb9 | .ndb10 | .ndb11 | .ndb12 | .ndb13 | .ndb14 | .ndb15 => true
  | .tosize _ | .hashsize _ => true
  | .fromsize n => sizeFits n
  | .hash _ d | .crc8Table d | .crc16Table d | .crc32Table d => bytesFit d
  | .encapsulate _ q => q.wellFormed
  | .getfieldHeader | .getfieldDestAddress | .getfieldSourceAddress | .getfieldProtocolFlags => true
  | .getfieldData | .getfieldHash | .getfieldInvalid => true
  | .removepadding _ p => bytesFit p

end Sys2Proof
end

