-- ==== Sys2Proof/Decode.lean ====
section
/-! DEFINITION. From the bytes of an operation packet to an operation, and back.

The spec gives a binary form to the four commands (R91), to the header word (R83) and to the fixed-width operands of
the functions, and says that the header rows "are not alternatives to decode among". The model's packet (log 1) is
the table's word in three bytes, least significant first, then one selector byte that says which reading of the word
is meant, then the operands the table does not encode, most significant byte first. -/

namespace Sys2Proof

/-! ## Header word -/

/-- The header word's fields (30_encoding.md R83, R85): `hw = {HDB2, HDB1}`. -/
def headerOfWord (hw : BitVec 16) : HeaderFields where
  dab := hw.extractLsb' 14 2
  sab := hw.extractLsb' 12 2
  pfb := hw.extractLsb' 10 2
  ack := hw.extractLsb' 8 2
  cmd := hw.extractLsb' 7 1
  edm := hw.extractLsb' 4 3
  ndb := hw.extractLsb' 0 4

/-- The header word of seven fields (R81 to R83). -/
def wordOfHeader (f : HeaderFields) : BitVec 16 :=
  f.dab ++ f.sab ++ f.pfb ++ f.ack ++ f.cmd ++ f.edm ++ f.ndb

/-- `UNPACK` as a function of the two header bytes, HDB2 first (R111). -/
def unpackHeader (hdb2 hdb1 : Byte) : HeaderFields := headerOfWord (hdb2 ++ hdb1)

/-- `PACK` as a function: HDB2 and HDB1 (R110). -/
def packHeader (f : HeaderFields) : Byte × Byte :=
  ((wordOfHeader f).extractLsb' 8 8, (wordOfHeader f).extractLsb' 0 8)

/-! ## Packets -/

/-- Which reading of the table word a packet asks for (log 1). -/
inductive Selector where
  | command
  | unpack
  | pack
  | widths
  | totalsize
  | offsets
  | edmCode
  | ndbCode
  | tosize
  | fromsize
  | hashsize
  | hash
  | tableForm
  | encapsulate
  | getfield
  | removepadding
  deriving DecidableEq, Repr

/-- The selector byte's value. -/
def Selector.code : Selector → Byte
  | .command => 0
  | .unpack => 1
  | .pack => 2
  | .widths => 3
  | .totalsize => 4
  | .offsets => 5
  | .edmCode => 6
  | .ndbCode => 7
  | .tosize => 8
  | .fromsize => 9
  | .hashsize => 10
  | .hash => 11
  | .tableForm => 12
  | .encapsulate => 13
  | .getfield => 14
  | .removepadding => 15

/-- The selector a byte names; values from 16 on name none. -/
def Selector.ofByte (b : Byte) : Option Selector :=
  match b.toNat with
  | 0 => some .command
  | 1 => some .unpack
  | 2 => some .pack
  | 3 => some .widths
  | 4 => some .totalsize
  | 5 => some .offsets
  | 6 => some .edmCode
  | 7 => some .ndbCode
  | 8 => some .tosize
  | 9 => some .fromsize
  | 10 => some .hashsize
  | 11 => some .hash
  | 12 => some .tableForm
  | 13 => some .encapsulate
  | 14 => some .getfield
  | 15 => some .removepadding
  | _ => none

/-- Why bytes are no packet. These are faults of the model's envelope only: no command word and no header word is
illegal (R91, R98). -/
inductive DecodeError where
  /-- fewer bytes than the packet's form needs -/
  | truncated
  /-- no reading has this selector byte -/
  | unknownSelector (code : Byte)
  /-- a bit is set above the width the table gives the word -/
  | strayBits
  /-- `tableForm` with an `edm` that has no table form (R173 to R175: 3, 4, 5) -/
  | noTableForm
  /-- a placement byte other than 0 and 1 -/
  | badPlacement
  /-- the length bytes disagree with the bytes that follow -/
  | badLength
  /-- bytes after the last operand -/
  | trailingBytes
  deriving DecidableEq, Repr

/-- The instruction `i`, if the word has no bit set at or above `width`. -/
def inWidth (width : Nat) (w : BitVec 24) (r : Except DecodeError Instr) : Except DecodeError Instr :=
  if w.toNat < 2 ^ width then r else .error .strayBits

/-- An operation with no operand bytes. -/
def noOperand (rest : List Byte) (i : Instr) : Except DecodeError Instr :=
  match rest with
  | [] => .ok i
  | _ :: _ => .error .trailingBytes

/-- An operation whose last operand is a byte sequence: two length bytes, then that many bytes. -/
def bytesOperand (rest : List Byte) (k : List Byte → Instr) : Except DecodeError Instr :=
  match rest with
  | n1 :: n0 :: d => if d.length = (n1 ++ n0 : BitVec 16).toNat then .ok (k d) else .error .badLength
  | _ => .error .truncated

/-- The placement a bit stands for: After 1, Before 0 (the table's note on REMOVEPADDING). -/
def placementOfBit (b : BitVec 1) : Placement := if b = 0 then .before else .after

/-- The bit of a placement. -/
def Placement.bit : Placement → BitVec 1
  | .before => 0
  | .after => 1

/-- The four commands (R91): opcode in bits 17:16, argument in bits 15:0. -/
def decodeCommand (w : BitVec 24) : Instr :=
  match (w.extractLsb' 16 2).toNat with
  | 0 => .decode (w.extractLsb' 0 8)
  | 1 => .reset
  | 2 => .init (w.extractLsb' 0 16)
  | _ => .calchash

/-- The edm code rows (R92) by bits 6:4; the five hash methods take the bytes they hash. -/
def decodeEdm (edm : BitVec 3) (rest : List Byte) : Except DecodeError Instr :=
  match edm.toNat with
  | 0 => noOperand rest .edmNone
  | 1 => noOperand rest .edmRetx3
  | 2 => bytesOperand rest .checksum8
  | 3 => bytesOperand rest .crc8
  | 4 => bytesOperand rest .crc16
  | 5 => bytesOperand rest .crc32
  | 6 => noOperand rest .edmFec
  | _ => bytesOperand rest .userhash

/-- The ndb code rows (R93) by bits 3:0. -/
def decodeNdb (ndb : BitVec 4) : Instr :=
  match ndb.toNat with
  | 0 => .ndb0
  | 1 => .ndb1
  | 2 => .ndb2
  | 3 => .ndb3
  | 4 => .ndb4
  | 5 => .ndb5
  | 6 => .ndb6
  | 7 => .ndb7
  | 8 => .ndb8
  | 9 => .ndb9
  | 10 => .ndb10
  | 11 => .ndb11
  | 12 => .ndb12
  | 13 => .ndb13
  | 14 => .ndb14
  | _ => .ndb15

/-- The GETFIELD rows by the selector code in bits 2:0 (R213): 6 and 7 are outside the six variants. -/
def decodeGetfield (sel : BitVec 3) : Instr :=
  match sel.toNat with
  | 0 => .getfieldHeader
  | 1 => .getfieldDestAddress
  | 2 => .getfieldSourceAddress
  | 3 => .getfieldProtocolFlags
  | 4 => .getfieldData
  | 5 => .getfieldHash
  | _ => .getfieldInvalid

/-- The table-driven rows (R173 to R175) by the method's edm code. -/
def decodeTableForm (edm : BitVec 3) (rest : List Byte) : Except DecodeError Instr :=
  match edm.toNat with
  | 3 => bytesOperand rest .crc8Table
  | 4 => bytesOperand rest .crc16Table
  | 5 => bytesOperand rest .crc32Table
  | _ => .error .noTableForm

/-- ENCAPSULATE: six header fields in the word (R210, in header-word order), then the three addresses of four bytes
each, the placement, the destination's capacity, the payload (log 30). -/
def decodeEncapsulate (w : BitVec 24) (rest : List Byte) : Except DecodeError Instr :=
  match rest with
  | d3 :: d2 :: d1 :: d0 :: s3 :: s2 :: s1 :: s0 :: p3 :: p2 :: p1 :: p0 :: pl :: c1 :: c0 :: rest =>
    if pl.toNat < 2 then
      bytesOperand rest fun data =>
        .encapsulate (c1 ++ c0)
          { dab := w.extractLsb' 10 2, sab := w.extractLsb' 8 2, pfb := w.extractLsb' 6 2,
            ack := w.extractLsb' 4 2, cmd := w.extractLsb' 3 1, edm := w.extractLsb' 0 3,
            destAddress := (d3 ++ d2 ++ d1 ++ d0 : BitVec 32).toNat,
            sourceAddress := (s3 ++ s2 ++ s1 ++ s0 : BitVec 32).toNat,
            protocolFlags := (p3 ++ p2 ++ p1 ++ p0 : BitVec 32).toNat,
            data := data,
            placement := placementOfBit (pl.extractLsb' 0 1) }
    else .error .badPlacement
  | _ => .error .truncated

/-- A packet's word and operand bytes, read as the selector says. -/
def decodeWord (sel : Selector) (w : BitVec 24) (rest : List Byte) : Except DecodeError Instr :=
  match sel with
  | .command => inWidth 18 w (noOperand rest (decodeCommand w))
  | .unpack => inWidth 16 w (noOperand rest (.unpack (w.extractLsb' 8 8) (w.extractLsb' 0 8)))
  | .pack => inWidth 16 w (noOperand rest (.pack (headerOfWord (w.extractLsb' 0 16))))
  | .widths => inWidth 16 w (noOperand rest (.widths (headerOfWord (w.extractLsb' 0 16))))
  | .totalsize => inWidth 16 w (noOperand rest (.totalsize (headerOfWord (w.extractLsb' 0 16))))
  | .offsets => inWidth 16 w (noOperand rest (.offsets (headerOfWord (w.extractLsb' 0 16))))
  | .edmCode => inWidth 16 w (decodeEdm (w.extractLsb' 4 3) rest)
  | .ndbCode => inWidth 16 w (noOperand rest (decodeNdb (w.extractLsb' 0 4)))
  | .tosize => inWidth 4 w (noOperand rest (.tosize (w.extractLsb' 0 4)))
  | .fromsize => noOperand rest (.fromsize w.toNat)
  | .hashsize => inWidth 3 w (noOperand rest (.hashsize (w.extractLsb' 0 3)))
  | .hash => inWidth 3 w (bytesOperand rest (.hash (w.extractLsb' 0 3)))
  | .tableForm => inWidth 3 w (decodeTableForm (w.extractLsb' 0 3) rest)
  | .encapsulate => inWidth 12 w (decodeEncapsulate w rest)
  | .getfield => inWidth 3 w (noOperand rest (decodeGetfield (w.extractLsb' 0 3)))
  | .removepadding => inWidth 1 w (bytesOperand rest (.removepadding (placementOfBit (w.extractLsb' 0 1))))

/-- The operation a packet stands for, or why its bytes are none. -/
def decode (packet : List Byte) : Except DecodeError Instr :=
  match packet with
  | b0 :: b1 :: b2 :: s :: rest =>
    match Selector.ofByte s with
    | some sel => decodeWord sel (b2 ++ b1 ++ b0) rest
    | none => .error (.unknownSelector s)
  | _ => .error .truncated

/-! ## The encoder -/

/-- A 16-bit number as two bytes, most significant first. -/
def bytes16 (v : BitVec 16) : List Byte := [v.extractLsb' 8 8, v.extractLsb' 0 8]

/-- A 32-bit number as four bytes, most significant first. -/
def bytes32 (v : BitVec 32) : List Byte :=
  [v.extractLsb' 24 8, v.extractLsb' 16 8, v.extractLsb' 8 8, v.extractLsb' 0 8]

/-- A byte sequence with its two length bytes. -/
def withLength (d : List Byte) : List Byte := bytes16 (BitVec.ofNat 16 d.length) ++ d

/-- A packet of a table word, a selector byte and operand bytes. -/
def packet (w : BitVec 24) (selector : Byte) (operands : List Byte) : List Byte :=
  w.extractLsb' 0 8 :: w.extractLsb' 8 8 :: w.extractLsb' 16 8 :: selector :: operands

/-- Which reading an operation's word is for. -/
def Instr.selector : Instr → Selector
  | .decode _ | .reset | .init _ | .calchash => .command
  | .unpack _ _ => .unpack
  | .pack _ => .pack
  | .widths _ => .widths
  | .totalsize _ => .totalsize
  | .offsets _ => .offsets
  | .edmNone | .edmRetx3 | .checksum8 _ | .crc8 _ | .crc16 _ | .crc32 _ | .edmFec | .userhash _ => .edmCode
  | .ndb0 | .ndb1 | .ndb2 | .ndb3 | .ndb4 | .ndb5 | .ndb6 | .ndb7 => .ndbCode
  | .ndb8 | .ndb9 | .ndb10 | .ndb11 | .ndb12 | .ndb13 | .ndb14 | .ndb15 => .ndbCode
  | .tosize _ => .tosize
  | .fromsize _ => .fromsize
  | .hashsize _ => .hashsize
  | .hash _ _ => .hash
  | .crc8Table _ | .crc16Table _ | .crc32Table _ => .tableForm
  | .encapsulate _ _ => .encapsulate
  | .getfieldHeader | .getfieldDestAddress | .getfieldSourceAddress | .getfieldProtocolFlags => .getfield
  | .getfieldData | .getfieldHash | .getfieldInvalid => .getfield
  | .removepadding _ _ => .removepadding

/-- An operation's word, in the table's numbering, with every ignored bit 0. -/
def Instr.word : Instr → BitVec 24
  | .decode b => (0x0000 : BitVec 16) ++ b
  | .reset => 0x010000
  | .init c => (0x02 : BitVec 8) ++ c
  | .calchash => 0x030000
  | .unpack hdb2 hdb1 => (0 : BitVec 8) ++ hdb2 ++ hdb1
  | .pack f | .widths f | .totalsize f | .offsets f => (0 : BitVec 8) ++ wordOfHeader f
  | .edmNone => 0x000000
  | .edmRetx3 => 0x000010
  | .checksum8 _ => 0x000020
  | .crc8 _ => 0x000030
  | .crc16 _ => 0x000040
  | .crc32 _ => 0x000050
  | .edmFec => 0x000060
  | .userhash _ => 0x000070
  | .ndb0 => 0
  | .ndb1 => 1
  | .ndb2 => 2
  | .ndb3 => 3
  | .ndb4 => 4
  | .ndb5 => 5
  | .ndb6 => 6
  | .ndb7 => 7
  | .ndb8 => 8
  | .ndb9 => 9
  | .ndb10 => 10
  | .ndb11 => 11
  | .ndb12 => 12
  | .ndb13 => 13
  | .ndb14 => 14
  | .ndb15 => 15
  | .tosize ndb => (0 : BitVec 20) ++ ndb
  | .fromsize n => BitVec.ofNat 24 n
  | .hashsize edm => (0 : BitVec 21) ++ edm
  | .hash edm _ => (0 : BitVec 21) ++ edm
  | .crc8Table _ => 3
  | .crc16Table _ => 4
  | .crc32Table _ => 5
  | .encapsulate _ q => (0 : BitVec 12) ++ q.dab ++ q.sab ++ q.pfb ++ q.ack ++ q.cmd ++ q.edm
  | .getfieldHeader => 0
  | .getfieldDestAddress => 1
  | .getfieldSourceAddress => 2
  | .getfieldProtocolFlags => 3
  | .getfieldData => 4
  | .getfieldHash => 5
  | .getfieldInvalid => 6
  | .removepadding p _ => (0 : BitVec 23) ++ p.bit

/-- An operation's operand bytes. -/
def Instr.operands : Instr → List Byte
  | .decode _ | .reset | .init _ | .calchash => []
  | .unpack _ _ | .pack _ | .widths _ | .totalsize _ | .offsets _ => []
  | .edmNone | .edmRetx3 | .edmFec => []
  | .checksum8 d | .crc8 d | .crc16 d | .crc32 d | .userhash d => withLength d
  | .ndb0 | .ndb1 | .ndb2 | .ndb3 | .ndb4 | .ndb5 | .ndb6 | .ndb7 => []
  | .ndb8 | .ndb9 | .ndb10 | .ndb11 | .ndb12 | .ndb13 | .ndb14 | .ndb15 => []
  | .tosize _ | .fromsize _ | .hashsize _ => []
  | .hash _ d | .crc8Table d | .crc16Table d | .crc32Table d => withLength d
  | .encapsulate cap q =>
    bytes32 (BitVec.ofNat 32 q.destAddress) ++ bytes32 (BitVec.ofNat 32 q.sourceAddress) ++
      bytes32 (BitVec.ofNat 32 q.protocolFlags) ++ [q.placement.bit.setWidth 8] ++ bytes16 cap ++ withLength q.data
  | .getfieldHeader | .getfieldDestAddress | .getfieldSourceAddress | .getfieldProtocolFlags => []
  | .getfieldData | .getfieldHash | .getfieldInvalid => []
  | .removepadding _ p => withLength p

/-- The packet of an operation. -/
def encode (i : Instr) : List Byte := packet i.word i.selector.code i.operands

/-! ## A word of the table alone -/

/-- The reading a table word gets when nothing but its width says which row is meant (log 2). 18 bits are a command
word. A header word stands for the code row its own bits name: the ndb row where its edm bits are 0 and its ndb bits
are not, otherwise the edm row. Eight bits are a field selector up to 7, from 8 on the low byte of a header word. A
width that one row alone has stands for that row. -/
def bareSelector (nbits w : Nat) : Option Selector :=
  if nbits = 24 ∨ nbits = 18 then some .command
  else if nbits = 16 ∨ (nbits = 8 ∧ 8 ≤ w) then
    some (if w / 16 % 8 = 0 ∧ w % 16 ≠ 0 then .ndbCode else .edmCode)
  else if nbits = 8 ∨ nbits = 3 then some .getfield
  else if nbits = 12 then some .encapsulate
  else if nbits = 10 then some .fromsize
  else if nbits = 4 then some .tosize
  else if nbits = 1 then some .removepadding
  else none

/-- Operand bytes of zeros for a bare word: as many as its row's form needs (empty sequences). -/
def zeroOperands (sel : Selector) (w : Nat) : List Byte :=
  match sel with
  | .edmCode =>
    match w / 16 % 8 with
    | 0 | 1 | 6 => []
    | _ => [0, 0]
  | .hash | .tableForm | .removepadding => [0, 0]
  | .encapsulate => List.replicate 17 0
  | .command | .unpack | .pack | .widths | .totalsize | .offsets | .ndbCode | .tosize | .fromsize | .hashsize
  | .getfield => []

/-- The packet a table word alone stands for; a width no row has gets a selector byte that names nothing. -/
def tablePacket (nbits w : Nat) : List Byte :=
  match bareSelector nbits w with
  | some sel => packet (BitVec.ofNat 24 w) sel.code (zeroOperands sel w)
  | none => packet (BitVec.ofNat 24 w) 0xFF []

/-- What the decoder reads from a table word of `nbits` bits (log 2). -/
def decodeTableWord (nbits w : Nat) : Option Instr :=
  match decode (tablePacket nbits w) with
  | .ok i => some i
  | .error _ => none

end Sys2Proof
end

