-- ==== Sys2Proof/Machine/State.lean ====
section
/-! DEFINITION. The state of one instance of the block as plain data, the reasons a step can stop, and the state after
hardware reset. -/

namespace Sys2Proof.Machine

/-- The frame buffer's contents: address and byte, addresses strictly rising; an address not listed has no value
(10_state.md R24, log 15). -/
abbrev Memory := List Host.Cell

/-- The error results (60_exceptions.md R241 to R243). `nullStorage` and, from commands, `fieldType` are never
produced by the block (R241, R242); both stand in the code table. -/
inductive ErrorCode where
  | unknownFormat
  | fieldType
  | frameFormat
  | shortFrame
  | nullStorage
  | bufferTooSmall
  deriving DecidableEq, Repr

/-- The result outputs of the last command (30_encoding.md R88, R89). -/
inductive CmdResult where
  /-- no command has completed since hardware reset (log 16) -/
  | empty
  /-- DECODE and RESET return `status'` (R89) -/
  | status (s : Status)
  /-- INIT succeeded -/
  | ok
  /-- CALCHASH: `Ok(width, value)` -/
  | hash (width value : Nat)
  /-- `Err(E)` -/
  | error (e : ErrorCode)
  deriving DecidableEq, Repr

/-- The five byte counts of WIDTHS (40_header_codec.md R112). -/
structure Widths where
  da   : Nat
  sa   : Nat
  pf   : Nat
  data : Nat
  hash : Nat
  deriving DecidableEq, Repr

/-- The five buffer indices of OFFSETS (R114). -/
structure Offsets where
  da   : Nat
  sa   : Nat
  pf   : Nat
  data : Nat
  hash : Nat
  deriving DecidableEq, Repr

/-- The value GETFIELD gives for a field (45_software_collaborators.md R217). -/
inductive FieldValue where
  | header (f : HeaderFields)
  | number (n : Nat)
  | data (bytes : List Byte)
  deriving DecidableEq, Repr

/-- The result of the last function operation (R90). -/
inductive FnResult where
  /-- no function has been evaluated (log 16) -/
  | empty
  | header (f : HeaderFields)
  | headerBytes (hdb2 hdb1 : Byte)
  | widths (w : Widths)
  | total (n : Nat)
  | offsets (o : Offsets)
  /-- a hash method's width in bytes and its value; `none`: no value (R147) -/
  | hash (width : Nat) (value : Option Nat)
  | payloadWidth (n : Nat)
  | tierCode (ndb : BitVec 4)
  | hashWidth (n : Nat)
  /-- ENCAPSULATE's returned status and the reported length (R211) -/
  | encapsulated (s : Status) (length : Nat)
  /-- GETFIELD: `Ok(width, value)` -/
  | field (width : Nat) (v : FieldValue)
  /-- GETFIELD: `Err(E)` -/
  | fieldError (e : ErrorCode)
  /-- REMOVEPADDING's length and the sequence it leaves; `none`: a byte without a value (R219, log 20) -/
  | trimmed (length : Nat) (bytes : List (Option Byte))
  deriving DecidableEq, Repr

/-- The software Frame ENCAPSULATE writes (R211): its stored status and `buf[0..length)`. No part of the block
(00_scope.md R4 f, log 18). -/
structure SoftFrame where
  status : Status
  bytes  : List Byte
  deriving DecidableEq, Repr

/-- What the driver presents (30_encoding.md R88): the reset input, or one operation as a packet (log 1, log 3). -/
inductive Input where
  | rst
  | op (packet : List Byte)
  deriving DecidableEq, Repr

/-- One instance of the block (10_state.md R20) with what stands beside it: the build it is (`config`, log 4), the
result outputs, the test bench's software Frame, what the driver has issued and the block not yet taken, and the
model's counter of free values. -/
structure State where
  config    : Config
  /-- the decoder's status register (R21) -/
  status    : Status
  /-- bytes stored of the current frame, and the index DECODE writes next (R22); 10 bits (log 23) -/
  length    : Nat
  /-- largest number of bytes the buffer may hold (R23); `none` is the spec's own state before the first successful
  INIT, "no value" (R32, log 14) -/
  capacity  : Option Nat
  /-- the frame buffer (R24) -/
  buf       : Memory
  /-- result outputs of the last command (R88) -/
  cmdResult : CmdResult
  /-- result of the last function operation (R90) -/
  fnResult  : FnResult
  /-- the software Frame of ENCAPSULATE (R211) -/
  soft      : SoftFrame
  /-- what the driver has issued, oldest first (log 3) -/
  inputs    : List Input
  /-- how many free values have been drawn (log 19) -/
  freeCount : Nat
  deriving DecidableEq, Repr

/-- Why the machine stops with a fault. No run from reset reaches one (both are safe: the model claims nothing). -/
inductive Fault where
  /-- a read of a buffer index that has no value: at or above `length`, or never written (R24, R257 b). Raised by
  DECODE, CALCHASH, GETFIELD in states no run reaches, and by the read port and the header view. Safe. -/
  | noValue (index : Nat)
  /-- a write at or above `capacity`: there is no such byte (20_memory.md R51, R57). Raised by DECODE in states no run
  reaches (log 24). Safe. -/
  | beyondCapacity (index : Nat)
  deriving DecidableEq, Repr

/-- Why the machine has no step. -/
inductive Refusal where
  /-- an operation the model has no meaning for; raised by no arm of this model. Safe. -/
  | notModelled (mnemonic : String)
  /-- DECODE, RESET or CALCHASH before the first successful INIT (60_exceptions.md R257 a, 10_state.md R32). Safe. -/
  | notInitialised
  /-- the driver has issued nothing: the run ends (70_reset_and_hazards.md R285). Raised by `step`. Safe. -/
  | noOperation
  /-- the issued bytes are no packet (log 1). Raised by `step`. Safe. -/
  | undecodable (e : DecodeError)
  deriving DecidableEq, Repr

/-- The block right after hardware reset (10_state.md R32): `Idle`, length 0, no capacity, no byte with a value; the
build is the one the spec takes (log 4); nothing issued, no result yet. -/
def State.reset : State where
  config    := Config.standard
  status    := .idle
  length    := 0
  capacity  := none
  buf       := []
  cmdResult := .empty
  fnResult  := .empty
  soft      := { status := .idle, bytes := [] }
  inputs    := []
  freeCount := 0

/-- The outcome of one step of this machine. -/
abbrev Outcome := Host.Outcome State Fault Refusal

end Sys2Proof.Machine
end

