-- ==== Sys2Proof/Machine/Ops.lean ====
section
/-! DEFINITION. The operations over the frame buffer and the registers that the meanings share: byte order, reads and
writes, voiding the frame, results and errors, entering an error status and leaving it. -/

namespace Sys2Proof.Machine

/-! ## Byte order (00_scope.md R14, 20_memory.md R54) -/

/-- `BE(s)`: the value of a byte sequence, most significant byte first. -/
def be (s : List Byte) : Nat := s.foldl (fun v b => v * 256 + b.toNat) 0

/-- `bytesBE(v, n)`: `n` bytes, most significant first, of `v mod 256^n`. -/
def bytesBE (v : Nat) : Nat → List Byte
  | 0 => []
  | n + 1 => bytesBE (v / 256) n ++ [BitVec.ofNat 8 v]

/-! ## The buffer's contents -/

/-- The canonical form: addresses strictly rising. No entry can equal what an unlisted address reads as, since that is
no value. -/
abbrev Memory.wf (m : Memory) : Prop := m.Pairwise fun x y => x.1 < y.1

/-- The byte at an address; an address not listed has no value (10_state.md R24). -/
def Memory.read : Memory → Nat → Option Byte
  | [], _ => none
  | (k, v) :: m, a => if a = k then some v else Memory.read m a

/-- Writes a byte, keeping the canonical form. -/
def Memory.write : Memory → Nat → Byte → Memory
  | [], a, b => [(a, b)]
  | (k, v) :: m, a, b =>
    if a < k then (a, b) :: (k, v) :: m
    else if a = k then (a, b) :: m
    else (k, v) :: Memory.write m a b

/-! ## Register updates -/

/-- The status a DECODE decides. For the error statuses this is the entry of 60_exceptions.md R249: `status` changes
and nothing else beyond what the DECODE had already done; nothing is saved elsewhere. -/
def State.enterStatus (s : State) (v : Status) : State := { s with status := v }

/-- The command's result outputs (R88). -/
def State.setCmd (s : State) (r : CmdResult) : State := { s with cmdResult := r }

/-- A function's result. -/
def State.setFn (s : State) (r : FnResult) : State := { s with fnResult := r }

/-- `capacity <- c`. -/
def State.setCapacity (s : State) (c : Nat) : State := { s with capacity := some c }

/-- The software Frame's new contents (R211). -/
def State.setSoft (s : State) (f : SoftFrame) : State := { s with soft := f }

/-- The driver's queue after one entry is taken. -/
def State.setInputs (s : State) (q : List Input) : State := { s with inputs := q }

/-- One free value has been drawn. -/
def State.countFree (s : State) : State := { s with freeCount := s.freeCount + 1 }

/-- The one store of the block (20_memory.md R51): `buf[i] <- b; length <- i + 1`. -/
def State.store (s : State) (i : Nat) (b : Byte) : State := { s with buf := s.buf.write i b, length := i + 1 }

/-- What RESET and INIT share, the return from a terminal status (60_exceptions.md R250): `Idle`, length 0, the
buffered bytes void (10_state.md R34, R35). -/
def State.abandon (s : State) : State := { s with status := .idle, length := 0, buf := [] }

/-- `raise E` for a command (00_scope.md R16): the error is returned and every piece of the block's state stays. -/
def State.raise (s : State) (e : ErrorCode) : State := s.setCmd (.error e)

/-- The `rst` input (10_state.md R32, 30_encoding.md R88): the block's four items and its result outputs return to
their reset values; the build and the driver's side stay (log 17). -/
def State.hardwareReset (s : State) : State := { s.abandon with capacity := none, cmdResult := .empty }

/-! ## Reads of the buffer -/

/-- `buf[i]`: a read at or above `length` has no value and faults (R24, R257 b). -/
def readByte (s : State) (i : Nat) : Except Fault Byte :=
  if i < s.length then
    match s.buf.read i with
    | some b => .ok b
    | none => .error (.noValue i)
  else .error (.noValue i)

/-- `buf[i..i+n)` (00_scope.md R13, R15). -/
def readBytes (s : State) (i : Nat) : Nat → Except Fault (List Byte)
  | 0 => .ok []
  | n + 1 =>
    match readByte s i with
    | .error e => .error e
    | .ok b =>
      match readBytes s (i + 1) n with
      | .error e => .error e
      | .ok d => .ok (b :: d)

/-- A store at index `i` by a block of capacity `cap`: a buffer of `cap` bytes has no index at or above it (R51). -/
def storeByte (s : State) (cap i : Nat) (b : Byte) : Except Fault State :=
  if i < cap then .ok (s.store i b) else .error (.beyondCapacity i)

/-! ## Outcomes -/

/-- Goes on with a read's value, or stops with its fault. -/
def withRead {α : Type} (r : Except Fault α) (k : α → Outcome) : Outcome :=
  match r with
  | .ok v => k v
  | .error e => .fault e

/-- Runs a command on an initialised block; before the first successful INIT the model refuses it (R257 a). -/
def withCapacity (s : State) (k : Nat → Outcome) : Outcome :=
  match s.capacity with
  | some cap => k cap
  | none => .refused .notInitialised

/-- A function operation: its result, and nothing else (R90). -/
def answer (s : State) (r : FnResult) : Outcome := .next (s.setFn r)

end Sys2Proof.Machine
end

