-- ==== Sys2Proof/Machine/Operands.lean ====
section
/-! DEFINITION. The operand forms: the size tiers, the hash widths, the regions a header lays out (the "field-width
router" of 30_encoding.md R87), the header a buffer holds, and the place of each field. -/

namespace Sys2Proof.Machine

/-- `TOSIZE` (41_size_tier.md R130). -/
def toSize (ndb : BitVec 4) : Nat :=
  if ndb.toNat ≤ 8 then ndb.toNat
  else if ndb.toNat ≤ 14 then 16 * 2 ^ (ndb.toNat - 9)
  else 0

/-- The codes FROMSIZE chooses among above 8 bytes, least first (R131). -/
def tierCodes : List (BitVec 4) := [9, 10, 11, 12, 13, 14]

/-- `FROMSIZE` (R131): 0 above 512, the size itself up to 8, otherwise the least tier code whose size is enough. -/
def fromSize (n : Nat) : BitVec 4 :=
  if 512 < n then 0
  else if n ≤ 8 then BitVec.ofNat 4 n
  else (tierCodes.find? fun c => decide (n ≤ toSize c)).getD 0

/-- `HASHSIZE` (42_hash_engine.md R140). -/
def hashSize (c : Config) (edm : BitVec 3) : Nat :=
  match edm.toNat with
  | 2 => 1
  | 3 => 1
  | 4 => 2
  | 5 => 4
  | 7 => c.userHashSize.val
  | _ => 0

/-- `WIDTHS` (40_header_codec.md R112). -/
def widthsOf (c : Config) (f : HeaderFields) : Widths where
  da   := f.dab.toNat
  sa   := f.sab.toNat
  pf   := f.pfb.toNat
  data := toSize f.ndb
  hash := hashSize c f.edm

/-- `OFFSETS` (R114): each region directly after the one before it, from index 3 on. -/
def offsetsOf (f : HeaderFields) : Offsets where
  da   := 3
  sa   := 3 + f.dab.toNat
  pf   := 3 + f.dab.toNat + f.sab.toNat
  data := 3 + f.dab.toNat + f.sab.toNat + f.pfb.toNat
  hash := 3 + f.dab.toNat + f.sab.toNat + f.pfb.toNat + toSize f.ndb

/-- `TOTALSIZE` (R113): sync byte, header, and the five widths. -/
def totalSize (c : Config) (f : HeaderFields) : Nat :=
  1 + 2 + f.dab.toNat + f.sab.toNat + f.pfb.toNat + toSize f.ndb + hashSize c f.edm

/-- `UNPACK(buf[1], buf[2])`, the header of the frame in the buffer (10_state.md R30). -/
def frameHeader (s : State) : Except Fault HeaderFields :=
  match readByte s 1 with
  | .error e => .error e
  | .ok hdb2 =>
    match readByte s 2 with
    | .error e => .error e
    | .ok hdb1 => .ok (unpackHeader hdb2 hdb1)

/-- The hashed bytes of a frame, `buf[HASH_FIRST_INDEX..hashOffset)` (42_hash_engine.md R148). -/
def hashedBytes (s : State) (f : HeaderFields) : Except Fault (List Byte) :=
  readBytes s s.config.hashFirstIndex.val ((offsetsOf f).hash - s.config.hashFirstIndex.val)

/-- The stored hash bytes, `buf[hashOffset..total)` (44_frame_decoder.md R186). -/
def storedHash (s : State) (f : HeaderFields) : Except Fault (List Byte) :=
  readBytes s (offsetsOf f).hash (hashSize s.config f.edm)

/-- The six valid field selectors (45_software_collaborators.md R213). -/
inductive Field where
  | header
  | destAddress
  | sourceAddress
  | protocolFlags
  | data
  | hash
  deriving DecidableEq, Repr

/-- Offset and width of a field (R216). -/
def Field.place (c : Config) (f : HeaderFields) : Field → Nat × Nat
  | .header => (1, 2)
  | .destAddress => ((offsetsOf f).da, (widthsOf c f).da)
  | .sourceAddress => ((offsetsOf f).sa, (widthsOf c f).sa)
  | .protocolFlags => ((offsetsOf f).pf, (widthsOf c f).pf)
  | .data => ((offsetsOf f).data, (widthsOf c f).data)
  | .hash => ((offsetsOf f).hash, (widthsOf c f).hash)

/-- A field's value from its bytes (R217): the header as its record, the payload as bytes, the rest big-endian. -/
def Field.value (f : HeaderFields) (bytes : List Byte) : Field → FieldValue
  | .header => .header f
  | .data => .data bytes
  | .destAddress | .sourceAddress | .protocolFlags | .hash => .number (be bytes)

end Sys2Proof.Machine
end

