-- ==== Sys2Proof/Machine/Flags.lean ====
section
/-! DEFINITION. The block has no flag register (10_state.md R27): the three predicates over the state that may be
brought out as wires, and the numeric codes of the outputs (R21, 60_exceptions.md R243). -/

namespace Sys2Proof.Machine

/-- A status that only RESET and INIT leave (R21). -/
def terminalStatus : Status → Bool
  | .idle | .incomplete => false
  | .valid | .errorHash | .errorOverflow => true

/-- `hdr_known`: both header bytes are stored (R27). -/
def State.hdrKnown (s : State) : Bool := decide (3 ≤ s.length)

/-- `terminal` (R27). -/
def State.terminal (s : State) : Bool := terminalStatus s.status

/-- `complete`: every byte of the frame is stored (R27). -/
def State.complete (s : State) : Bool :=
  match s.status with
  | .valid | .errorHash => true
  | .idle | .incomplete | .errorOverflow => false

/-- The 3-bit code of a status (R21). -/
def statusCode : Status → BitVec 3
  | .idle => 0
  | .incomplete => 1
  | .valid => 2
  | .errorHash => 3
  | .errorOverflow => 4

/-- The 3-bit code of an error (R243); 0 is `Ok`. -/
def errorCode : ErrorCode → BitVec 3
  | .unknownFormat => 1
  | .fieldType => 2
  | .frameFormat => 3
  | .shortFrame => 4
  | .nullStorage => 5
  | .bufferTooSmall => 6

end Sys2Proof.Machine
end

