-- ==== Sys2Proof/Machine/Engines.lean ====
section
/-! DEFINITION. The hash engines (42_hash_engine.md, 43_hash_tables.md): each a left fold over its input bytes (R141),
the CRCs in the bit-serial form and in the table-driven form. -/

namespace Sys2Proof.Machine

/-! ## Checksum -/

/-- CHECKSUM8 (R142): the sum of the bytes modulo 256, from the build's initial value. -/
def checksum8 (c : Config) (d : List Byte) : Byte := d.foldl (fun acc b => acc + b) c.checksumInit

/-! ## The bit-serial CRC (R152) -/

/-- One bit's shift of the register: least significant bit first where the engine is reflected (R143, R145), most
significant first where it is not (R144). -/
def crcShift {w : Nat} (p : CrcParams w) (c : BitVec w) : BitVec w :=
  if p.reflected then
    if c.getLsbD 0 then (c >>> 1) ^^^ p.feedback else c >>> 1
  else
    if c.msb then (c <<< 1) ^^^ p.feedback else c <<< 1

/-- `n` bit shifts. -/
def crcShifts {w : Nat} (p : CrcParams w) : Nat → BitVec w → BitVec w
  | 0, c => c
  | n + 1, c => crcShifts p n (crcShift p c)

/-- A byte at the end of the register where bits enter: the low end where reflected, the high end where not. -/
def crcAlign {w : Nat} (p : CrcParams w) (b : Byte) : BitVec w :=
  if p.reflected then b.setWidth w else b.setWidth w <<< (w - 8)

/-- `step(acc, b)`, bit-serial (R143 to R145). -/
def crcStep {w : Nat} (p : CrcParams w) (acc : BitVec w) (b : Byte) : BitVec w :=
  crcShifts p 8 (acc ^^^ crcAlign p b)

/-- The CRC of a byte sequence, bit-serial. -/
def crc {w : Nat} (p : CrcParams w) (d : List Byte) : BitVec w := d.foldl (crcStep p) p.init ^^^ p.xorout

/-! ## The table-driven CRC -/

/-- Entry `i` of an engine's table, by its generating rule (R170 to R172). -/
def crcEntry {w : Nat} (p : CrcParams w) (i : Byte) : BitVec w := crcShifts p 8 (crcAlign p i)

/-- `step(acc, b)`, one table read a byte (R173 to R175). -/
def crcTableStep {w : Nat} (p : CrcParams w) (acc : BitVec w) (b : Byte) : BitVec w :=
  if p.reflected then (acc >>> 8) ^^^ crcEntry p ((acc ^^^ b.setWidth w).setWidth 8)
  else (acc <<< 8) ^^^ crcEntry p ((acc >>> (w - 8)).setWidth 8 ^^^ b)

/-- The CRC of a byte sequence, table-driven. -/
def crcByTable {w : Nat} (p : CrcParams w) (d : List Byte) : BitVec w :=
  d.foldl (crcTableStep p) p.init ^^^ p.xorout

/-- The form `HASH_IMPL` builds in (00_scope.md R8). -/
def crcBuilt {w : Nat} (impl : HashImpl) (p : CrcParams w) (d : List Byte) : BitVec w :=
  match impl with
  | .bitwise => crc p d
  | .table => crcByTable p d

/-! ## User hash and dispatch -/

/-- `UserHash`, the unit behind the user-hash port (R9, R146). -/
def userHashUnit (u : UserHashUnit) (d : List Byte) : Nat :=
  match u with
  | .constant v => v
  | .linked n => Config.linkedHash n d

/-- USERHASH (R146): the low-order `USER_HASH_SIZE` bytes of what the unit answers. -/
def userHash (c : Config) (d : List Byte) : Nat := userHashUnit c.userHash d % 256 ^ c.userHashSize.val

/-- HASH (R147): the value the method `edm` gives, none for the methods without a hash. -/
def hashBy (c : Config) (edm : BitVec 3) (d : List Byte) : Option Nat :=
  match edm.toNat with
  | 2 => some (checksum8 c d).toNat
  | 3 => some (crcBuilt c.hashImpl c.crc8 d).toNat
  | 4 => some (crcBuilt c.hashImpl c.crc16 d).toNat
  | 5 => some (crcBuilt c.hashImpl c.crc32 d).toNat
  | 7 => some (userHash c d)
  | _ => none

end Sys2Proof.Machine
end

