-- ==== Sys2Proof/Machine/Command.lean ====
section
/-! DEFINITION. The four commands (44_frame_decoder.md, 42_hash_engine.md R149). -/

namespace Sys2Proof.Machine

/-- COMPLETE (R182, R186): the status of a frame whose last byte is stored. -/
def completion (s : State) (f : HeaderFields) : Except Fault Status :=
  if hashSize s.config f.edm = 0 then .ok .valid
  else
    match hashedBytes s f with
    | .error e => .error e
    | .ok d =>
      match storedHash s f with
      | .error e => .error e
      | .ok st => .ok (if hashBy s.config f.edm d = some (be st) then .valid else .errorHash)

/-- The status after a byte is stored in `Incomplete` (R182, R184, R185): no test before the header is known, then the
overflow test, then the completion test. -/
def judge (s : State) (cap : Nat) : Except Fault Status :=
  if s.length < 3 then .ok .incomplete
  else
    match frameHeader s with
    | .error e => .error e
    | .ok f =>
      if cap < totalSize s.config f then .ok .errorOverflow
      else if s.length = totalSize s.config f then completion s f
      else .ok .incomplete

/-- A command that returns `status'` (R89). -/
def returnStatus (s : State) : Outcome := .next (s.setCmd (.status s.status))

/-- DECODE (R182; its arms R183 to R189). In `Idle` the capacity is not consulted (R183). -/
def execDecode (b : Byte) (s : State) : Outcome :=
  withCapacity s fun cap =>
    match s.status with
    | .idle =>
      if b = s.config.sync then returnStatus ((s.store 0 b).enterStatus .incomplete)
      else returnStatus s
    | .incomplete =>
      withRead (storeByte s cap s.length b) fun t =>
        withRead (judge t cap) fun v => returnStatus (t.enterStatus v)
    | .valid | .errorHash | .errorOverflow => returnStatus s

/-- RESET (R181). -/
def execReset (s : State) : Outcome := withCapacity s fun _ => returnStatus s.abandon

/-- INIT (R180): a request below `MIN_FRAME_SIZE` is rejected, one above `MAX_FRAME_SIZE` clamped. Accepted in every
status and before anything else. -/
def execInit (c : BitVec 16) (s : State) : Outcome :=
  if c.toNat < minFrameSize then .next (s.raise .bufferTooSmall)
  else .next ((s.abandon.setCapacity (min c.toNat s.config.maxFrameSize)).setCmd .ok)

/-- CALCHASH (R149): the three checks in their order, then the hash of the stored bytes. -/
def execCalchash (s : State) : Outcome :=
  withCapacity s fun _ =>
    if s.length < 3 then .next (s.raise .unknownFormat)
    else
      withRead (frameHeader s) fun f =>
        if hashSize s.config f.edm = 0 then .next (s.raise .frameFormat)
        else if s.length < (offsetsOf f).hash + hashSize s.config f.edm then .next (s.raise .shortFrame)
        else
          withRead (hashedBytes s f) fun d =>
            .next (s.setCmd (.hash (hashSize s.config f.edm) ((hashBy s.config f.edm d).getD 0)))

end Sys2Proof.Machine
end

