-- ==== Sys2Proof/Machine/Header.lean ====
section
/-! DEFINITION. The header functions (40_header_codec.md): each answers its result and reads and writes no state of the
block. -/

namespace Sys2Proof.Machine

/-- UNPACK (R111). -/
def execUnpack (hdb2 hdb1 : Byte) (s : State) : Outcome := answer s (.header (unpackHeader hdb2 hdb1))

/-- PACK (R110). -/
def execPack (f : HeaderFields) (s : State) : Outcome :=
  answer s (.headerBytes (packHeader f).1 (packHeader f).2)

/-- WIDTHS (R112). -/
def execWidths (f : HeaderFields) (s : State) : Outcome := answer s (.widths (widthsOf s.config f))

/-- TOTALSIZE (R113). -/
def execTotalsize (f : HeaderFields) (s : State) : Outcome := answer s (.total (totalSize s.config f))

/-- OFFSETS (R114). -/
def execOffsets (f : HeaderFields) (s : State) : Outcome := answer s (.offsets (offsetsOf f))

end Sys2Proof.Machine
end

