-- ==== Sys2Proof/Machine/EdmCode.lean ====
section
/-! DEFINITION. The edm code rows (30_encoding.md R92): the hash method a code selects, with its width (R140) and, for
a method with a hash, its value over a byte sequence (log 22, log 31). -/

namespace Sys2Proof.Machine

/-- A method without a hash: width 0, no value (R96, R140). -/
def noHash (edm : BitVec 3) (s : State) : Outcome := answer s (.hash (hashSize s.config edm) none)

/-- A method with a hash: its width and value. -/
def hashOf (edm : BitVec 3) (value : Nat) (s : State) : Outcome :=
  answer s (.hash (hashSize s.config edm) (some value))

/-- EDM_NONE, code 0 (R140). -/
def execEdmNone (s : State) : Outcome := noHash 0 s

/-- EDM_RETX3, code 1 (R96). -/
def execEdmRetx3 (s : State) : Outcome := noHash 1 s

/-- CHECKSUM8, code 2 (R142). -/
def execChecksum8 (d : List Byte) (s : State) : Outcome := hashOf 2 (checksum8 s.config d).toNat s

/-- CRC8, code 3, bit-serial (R143). -/
def execCrc8 (d : List Byte) (s : State) : Outcome := hashOf 3 (crc s.config.crc8 d).toNat s

/-- CRC16, code 4, bit-serial (R144). -/
def execCrc16 (d : List Byte) (s : State) : Outcome := hashOf 4 (crc s.config.crc16 d).toNat s

/-- CRC32, code 5, bit-serial (R145). -/
def execCrc32 (d : List Byte) (s : State) : Outcome := hashOf 5 (crc s.config.crc32 d).toNat s

/-- EDM_FEC, code 6 (R96). -/
def execEdmFec (s : State) : Outcome := noHash 6 s

/-- USERHASH, code 7 (R146). -/
def execUserhash (d : List Byte) (s : State) : Outcome := hashOf 7 (userHash s.config d) s

end Sys2Proof.Machine
end

