-- ==== Sys2Proof/Machine/NdbCode.lean ====
section
/-! DEFINITION. The ndb code rows (30_encoding.md R93): the payload width a code selects (41_size_tier.md R130). -/

namespace Sys2Proof.Machine

/-- The payload width of a tier code. -/
def payloadOf (ndb : BitVec 4) (s : State) : Outcome := answer s (.payloadWidth (toSize ndb))

/-- NDB_0: a payload of 0 bytes. -/
def execNdb0 (s : State) : Outcome := payloadOf 0 s

/-- NDB_1: a payload of 1 bytes. -/
def execNdb1 (s : State) : Outcome := payloadOf 1 s

/-- NDB_2: a payload of 2 bytes. -/
def execNdb2 (s : State) : Outcome := payloadOf 2 s

/-- NDB_3: a payload of 3 bytes. -/
def execNdb3 (s : State) : Outcome := payloadOf 3 s

/-- NDB_4: a payload of 4 bytes. -/
def execNdb4 (s : State) : Outcome := payloadOf 4 s

/-- NDB_5: a payload of 5 bytes. -/
def execNdb5 (s : State) : Outcome := payloadOf 5 s

/-- NDB_6: a payload of 6 bytes. -/
def execNdb6 (s : State) : Outcome := payloadOf 6 s

/-- NDB_7: a payload of 7 bytes. -/
def execNdb7 (s : State) : Outcome := payloadOf 7 s

/-- NDB_8: a payload of 8 bytes. -/
def execNdb8 (s : State) : Outcome := payloadOf 8 s

/-- NDB_9: a payload of 16 bytes. -/
def execNdb9 (s : State) : Outcome := payloadOf 9 s

/-- NDB_10: a payload of 32 bytes. -/
def execNdb10 (s : State) : Outcome := payloadOf 10 s

/-- NDB_11: a payload of 64 bytes. -/
def execNdb11 (s : State) : Outcome := payloadOf 11 s

/-- NDB_12: a payload of 128 bytes. -/
def execNdb12 (s : State) : Outcome := payloadOf 12 s

/-- NDB_13: a payload of 256 bytes. -/
def execNdb13 (s : State) : Outcome := payloadOf 13 s

/-- NDB_14: a payload of 512 bytes. -/
def execNdb14 (s : State) : Outcome := payloadOf 14 s

/-- NDB_15: unsupported and legal (R97), a payload of 0 bytes. -/
def execNdb15 (s : State) : Outcome := payloadOf 15 s

end Sys2Proof.Machine
end

