-- ==== Sys2Proof/Machine/Func.lean ====
section
/-! DEFINITION. The functions that have no command word (format FUNC, 30_encoding.md R90). -/

namespace Sys2Proof.Machine

/-- TOSIZE (41_size_tier.md R130). -/
def execTosize (ndb : BitVec 4) (s : State) : Outcome := answer s (.payloadWidth (toSize ndb))

/-- FROMSIZE (R131), on every natural. -/
def execFromsize (dataSize : Nat) (s : State) : Outcome := answer s (.tierCode (fromSize dataSize))

/-- HASHSIZE (42_hash_engine.md R140). -/
def execHashsize (edm : BitVec 3) (s : State) : Outcome := answer s (.hashWidth (hashSize s.config edm))

/-- HASH (R147): the method's width and value, no value for the methods without a hash (log 25). -/
def execHash (edm : BitVec 3) (d : List Byte) (s : State) : Outcome :=
  answer s (.hash (hashSize s.config edm) (hashBy s.config edm d))

/-- CRC8_TABLE (43_hash_tables.md R173). -/
def execCrc8Table (d : List Byte) (s : State) : Outcome :=
  answer s (.hash (hashSize s.config 3) (some (crcByTable s.config.crc8 d).toNat))

/-- CRC16_TABLE (R174). -/
def execCrc16Table (d : List Byte) (s : State) : Outcome :=
  answer s (.hash (hashSize s.config 4) (some (crcByTable s.config.crc16 d).toNat))

/-- CRC32_TABLE (R175). -/
def execCrc32Table (d : List Byte) (s : State) : Outcome :=
  answer s (.hash (hashSize s.config 5) (some (crcByTable s.config.crc32 d).toNat))

end Sys2Proof.Machine
end

