-- ==== Sys2Proof/Machine/Software.lean ====
section
/-! DEFINITION. The software around the block (45_software_collaborators.md, informative): ENCAPSULATE, GETFIELD,
REMOVEPADDING. None of them writes the block's registers or buffer (20_memory.md R62, 70_reset_and_hazards.md R276). -/

namespace Sys2Proof.Machine

/-! ## ENCAPSULATE -/

/-- The header of a request: its six fields and the tier code of its payload's length (R211). -/
def Request.header (q : Request) : HeaderFields where
  dab := q.dab
  sab := q.sab
  pfb := q.pfb
  ack := q.ack
  cmd := q.cmd
  edm := q.edm
  ndb := fromSize q.data.length

/-- The payload region (R211): the data padded with zeros to the tier's size; a payload above 512 bytes is dropped and
the region is empty (R131, U3). -/
def Request.payload (q : Request) : List Byte :=
  if q.data.length ≤ toSize (Request.header q).ndb then
    match q.placement with
    | .after => q.data ++ List.replicate (toSize (Request.header q).ndb - q.data.length) 0
    | .before => List.replicate (toSize (Request.header q).ndb - q.data.length) 0 ++ q.data
  else []

/-- `body` (R211): everything of the frame between the sync byte and the hash. Addresses and flags keep their
low-order bytes. -/
def Request.body (q : Request) : List Byte :=
  [(packHeader (Request.header q)).1, (packHeader (Request.header q)).2]
    ++ bytesBE q.destAddress q.dab.toNat
    ++ bytesBE q.sourceAddress q.sab.toNat
    ++ bytesBE q.protocolFlags q.pfb.toNat
    ++ Request.payload q

/-- The bytes ENCAPSULATE hashes: `body`, as the decoder does from index 1 (R211, 90_conflicts.md C2); with
`HASH_FIRST_INDEX = 0` the sync byte too, so that both ends use one range (R274, log 28). -/
def hashInput (c : Config) (body : List Byte) : List Byte := (c.sync :: body).drop c.hashFirstIndex.val

/-- The frame of a request (R211). -/
def frameOf (c : Config) (q : Request) : List Byte :=
  (c.sync :: Request.body q)
    ++ bytesBE ((hashBy c q.edm (hashInput c (Request.body q))).getD 0) (hashSize c q.edm)

/-- ENCAPSULATE (R211) into a software Frame of `capacity` bytes. On overflow the call returns `ErrorOverflow` and
reports length 0; what status is stored then is a free value (U18, log 19). -/
def execEncapsulate (capacity : BitVec 16) (q : Request) (s : State) : Outcome :=
  if capacity.toNat < totalSize s.config (Request.header q) then
    .next (((s.setSoft { status := Config.rejectedStatus s.freeCount, bytes := [] }).countFree).setFn
      (.encapsulated .errorOverflow 0))
  else
    .next ((s.setSoft { status := .valid, bytes := frameOf s.config q }).setFn
      (.encapsulated .valid (totalSize s.config (Request.header q))))

/-! ## GETFIELD -/

/-- GETFIELD's validation order (R214): `UnknownFormat`, `FieldType`, `FrameFormat`, `ShortFrame`; `none` stands for a
selector outside the six. It reads the frame in the block's buffer (log 21). -/
def getField (sel : Option Field) (s : State) : Outcome :=
  if s.length < 3 then answer s (.fieldError .unknownFormat)
  else
    match sel with
    | none => answer s (.fieldError .fieldType)
    | some fd =>
      withRead (frameHeader s) fun f =>
        if (fd.place s.config f).2 = 0 then answer s (.fieldError .frameFormat)
        else if s.length < (fd.place s.config f).1 + (fd.place s.config f).2 then
          answer s (.fieldError .shortFrame)
        else
          withRead (readBytes s (fd.place s.config f).1 (fd.place s.config f).2) fun d =>
            answer s (.field (fd.place s.config f).2 (fd.value f d))

/-- GETFIELD Header (R214, R216, R217). -/
def execGetfieldHeader (s : State) : Outcome := getField (some .header) s

/-- GETFIELD DestAddress. -/
def execGetfieldDestAddress (s : State) : Outcome := getField (some .destAddress) s

/-- GETFIELD SourceAddress. -/
def execGetfieldSourceAddress (s : State) : Outcome := getField (some .sourceAddress) s

/-- GETFIELD ProtocolFlags. -/
def execGetfieldProtocolFlags (s : State) : Outcome := getField (some .protocolFlags) s

/-- GETFIELD Data. -/
def execGetfieldData (s : State) : Outcome := getField (some .data) s

/-- GETFIELD Hash: the stored hash, not the computed one. -/
def execGetfieldHash (s : State) : Outcome := getField (some .hash) s

/-- GETFIELD with selector code 6 or 7 (R213, R215). -/
def execGetfieldInvalid (s : State) : Outcome := getField none s

/-! ## REMOVEPADDING -/

/-- The bytes from the first non-zero one on. -/
def dropZeros (p : List Byte) : List Byte := p.dropWhile fun b => decide (b = 0)

/-- The length without padding (R219): up to 8 bytes were never padded; otherwise what lies before the trailing zeros
(`After`) or from the first non-zero byte on (`Before`); 0 if every byte is zero. -/
def trimmedLength (placement : Placement) (p : List Byte) : Nat :=
  if p.length ≤ 8 then p.length
  else
    match placement with
    | .after => (dropZeros p.reverse).length
    | .before => (dropZeros p).length

/-- The sequence after the call (R219): moved to the front with `Before` and a non-zero byte, the bytes behind the
moved part then having no value (D28, log 20); otherwise as it was. -/
def trimmedBytes (placement : Placement) (p : List Byte) : List (Option Byte) :=
  if p.length ≤ 8 ∨ placement = .after ∨ dropZeros p = [] then p.map some
  else (dropZeros p).map some ++ List.replicate (p.length - (dropZeros p).length) none

/-- REMOVEPADDING (R219). -/
def execRemovepadding (placement : Placement) (p : List Byte) (s : State) : Outcome :=
  answer s (.trimmed (trimmedLength placement p) (trimmedBytes placement p))

end Sys2Proof.Machine
end

