-- ==== Sys2Proof/Machine/Ports.lean ====
section
/-! DEFINITION. The outputs of the block (30_encoding.md R88) as functions of its state, all showing the state after
the last completed operation (20_memory.md R58). None changes state (60_exceptions.md R255). -/

namespace Sys2Proof.Machine

/-- `status`, 3 bits. -/
def statusPort (s : State) : BitVec 3 := statusCode s.status

/-- `length`, 10 bits. -/
def lengthPort (s : State) : BitVec 10 := BitVec.ofNat 10 s.length

/-- `capacity`, 10 bits; no value before the first successful INIT (R32). -/
def capacityPort (s : State) : Option (BitVec 10) := s.capacity.map (BitVec.ofNat 10)

/-- `rd_byte` for `rd_idx`: `buf[rd_idx]` below `length`; a read elsewhere faults (R24, R257 b). -/
def readPort (s : State) (rdIdx : BitVec 10) : Except Fault Byte := readByte s rdIdx.toNat

/-- `res_err`, 3 bits: the code of INIT's or CALCHASH's error, 0 where it succeeded (R88, R243). No value after DECODE
or RESET, for which R88 does not use it and no rule gives one (DESIGN CHOICE, log 34), and none before the first command
(log 16). -/
def resErrPort (s : State) : Option (BitVec 3) :=
  match s.cmdResult with
  | .empty | .status _ => none
  | .ok | .hash _ _ => some 0
  | .error e => some (errorCode e)

/-- `res_width`, 3 bits: CALCHASH's width; no value after any other result (log 34). -/
def resWidthPort (s : State) : Option (BitVec 3) :=
  match s.cmdResult with
  | .hash width _ => some (BitVec.ofNat 3 width)
  | .empty | .status _ | .ok | .error _ => none

/-- `res_value`, 32 bits: CALCHASH's value; no value after any other result (log 34). -/
def resValuePort (s : State) : Option (BitVec 32) :=
  match s.cmdResult with
  | .hash _ value => some (BitVec.ofNat 32 value)
  | .empty | .status _ | .ok | .error _ => none

/-- The header view (40_header_codec.md R117). -/
structure HeaderView where
  fields  : HeaderFields
  widths  : Widths
  offsets : Offsets
  total   : Nat
  deriving DecidableEq, Repr

/-- The header view's outputs: they have no value while `length < 3` (R117), and a read of them then faults. -/
def headerView (s : State) : Except Fault HeaderView :=
  match frameHeader s with
  | .error e => .error e
  | .ok f =>
    .ok { fields := f, widths := widthsOf s.config f, offsets := offsetsOf f, total := totalSize s.config f }

end Sys2Proof.Machine
end

