-- ==== Sys2Proof/Machine/Dispatch.lean ====
section
/-! DEFINITION. One arm per operation. -/

namespace Sys2Proof.Machine

def exec (i : Instr) (s : State) : Host.Outcome State Fault Refusal :=
  match i with
  | .decode b => Sys2Proof.Machine.execDecode b s
  | .reset => Sys2Proof.Machine.execReset s
  | .init c => Sys2Proof.Machine.execInit c s
  | .calchash => Sys2Proof.Machine.execCalchash s
  | .unpack hdb2 hdb1 => Sys2Proof.Machine.execUnpack hdb2 hdb1 s
  | .pack f => Sys2Proof.Machine.execPack f s
  | .widths f => Sys2Proof.Machine.execWidths f s
  | .totalsize f => Sys2Proof.Machine.execTotalsize f s
  | .offsets f => Sys2Proof.Machine.execOffsets f s
  | .edmNone => Sys2Proof.Machine.execEdmNone s
  | .edmRetx3 => Sys2Proof.Machine.execEdmRetx3 s
  | .checksum8 d => Sys2Proof.Machine.execChecksum8 d s
  | .crc8 d => Sys2Proof.Machine.execCrc8 d s
  | .crc16 d => Sys2Proof.Machine.execCrc16 d s
  | .crc32 d => Sys2Proof.Machine.execCrc32 d s
  | .edmFec => Sys2Proof.Machine.execEdmFec s
  | .userhash d => Sys2Proof.Machine.execUserhash d s
  | .ndb0 => Sys2Proof.Machine.execNdb0 s
  | .ndb1 => Sys2Proof.Machine.execNdb1 s
  | .ndb2 => Sys2Proof.Machine.execNdb2 s
  | .ndb3 => Sys2Proof.Machine.execNdb3 s
  | .ndb4 => Sys2Proof.Machine.execNdb4 s
  | .ndb5 => Sys2Proof.Machine.execNdb5 s
  | .ndb6 => Sys2Proof.Machine.execNdb6 s
  | .ndb7 => Sys2Proof.Machine.execNdb7 s
  | .ndb8 => Sys2Proof.Machine.execNdb8 s
  | .ndb9 => Sys2Proof.Machine.execNdb9 s
  | .ndb10 => Sys2Proof.Machine.execNdb10 s
  | .ndb11 => Sys2Proof.Machine.execNdb11 s
  | .ndb12 => Sys2Proof.Machine.execNdb12 s
  | .ndb13 => Sys2Proof.Machine.execNdb13 s
  | .ndb14 => Sys2Proof.Machine.execNdb14 s
  | .ndb15 => Sys2Proof.Machine.execNdb15 s
  | .tosize ndb => Sys2Proof.Machine.execTosize ndb s
  | .fromsize dataSize => Sys2Proof.Machine.execFromsize dataSize s
  | .hashsize edm => Sys2Proof.Machine.execHashsize edm s
  | .hash edm d => Sys2Proof.Machine.execHash edm d s
  | .crc8Table d => Sys2Proof.Machine.execCrc8Table d s
  | .crc16Table d => Sys2Proof.Machine.execCrc16Table d s
  | .crc32Table d => Sys2Proof.Machine.execCrc32Table d s
  | .encapsulate capacity q => Sys2Proof.Machine.execEncapsulate capacity q s
  | .getfieldHeader => Sys2Proof.Machine.execGetfieldHeader s
  | .getfieldDestAddress => Sys2Proof.Machine.execGetfieldDestAddress s
  | .getfieldSourceAddress => Sys2Proof.Machine.execGetfieldSourceAddress s
  | .getfieldProtocolFlags => Sys2Proof.Machine.execGetfieldProtocolFlags s
  | .getfieldData => Sys2Proof.Machine.execGetfieldData s
  | .getfieldHash => Sys2Proof.Machine.execGetfieldHash s
  | .getfieldInvalid => Sys2Proof.Machine.execGetfieldInvalid s
  | .removepadding placement p => Sys2Proof.Machine.execRemovepadding placement p s

end Sys2Proof.Machine
end

