-- ==== Sys2Proof/Machine/Step.lean ====
section
/-! DEFINITION. One step: the block takes the oldest thing its driver has presented (00_scope.md R18, log 3). -/

namespace Sys2Proof.Machine

/-- One step. Nothing presented: the run ends (70_reset_and_hazards.md R285). The reset input: hardware reset
(10_state.md R32). An operation: it is decoded, taken from the queue and run to completion. -/
def step (s : State) : Host.Outcome State Fault Refusal :=
  match s.inputs with
  | [] => .refused .noOperation
  | .rst :: rest => .next (s.setInputs rest).hardwareReset
  | .op packet :: rest =>
    match decode packet with
    | .ok i => exec i (s.setInputs rest)
    | .error e => .refused (.undecodable e)

/-- `s` with the packet of one table word presented next (log 2, log 3). -/
def State.withFetchWord (s : State) (nbits w : Nat) : State :=
  s.setInputs (.op (tablePacket nbits w) :: s.inputs)

end Sys2Proof.Machine
end

