-- ==== Sys2Proof/Safety.lean ====
section
/-! DEFINITION. What counts as a safe run, in the terms claims use: the invariants of 10_state.md R31, what two states
share, and a run of DECODEs. -/

namespace Sys2Proof.Machine

/-- The bytes the buffer lists, in order of their index. -/
def State.frameBytes (s : State) : List Byte := s.buf.map Prod.snd

/-- `buf[i..i+n)` of the listed bytes. -/
def State.slice (s : State) (i n : Nat) : List Byte := (s.frameBytes.drop i).take n

/-- The invariants between operations (10_state.md R31). `build` and `filled` say, besides, that the build is one the
spec covers and that exactly the indices below `length` hold a value (R24). -/
structure FrameInv (s : State) : Prop where
  build : s.config.wf
  filled : s.buf.map Prod.fst = List.range s.length
  /-- before the first successful INIT nothing is stored (R32) -/
  uninitialised : s.capacity = none → s.length = 0
  /-- R31 (a) -/
  bounds : ∀ cap, s.capacity = some cap → 3 ≤ cap ∧ cap ≤ s.config.maxFrameSize ∧ s.length ≤ cap
  /-- R31 (b) -/
  idle : s.status = .idle ↔ s.length = 0
  /-- R31 (c) -/
  sync : 1 ≤ s.length → s.buf.read 0 = some s.config.sync
  /-- R31 (d) -/
  incomplete : s.status = .incomplete → ∀ cap, s.capacity = some cap →
    s.length < cap ∧
      (s.length < 3 ∨
        ∃ f, frameHeader s = .ok f ∧ s.length < totalSize s.config f ∧ totalSize s.config f ≤ cap)
  /-- R31 (e), the length of a complete frame -/
  completed : s.status = .valid ∨ s.status = .errorHash →
    3 ≤ s.length ∧ ∃ f, frameHeader s = .ok f ∧ s.length = totalSize s.config f
  /-- R31 (e), `Valid` -/
  valid : s.status = .valid → ∀ f, frameHeader s = .ok f →
    hashSize s.config f.edm = 0 ∨
      ∃ d st, hashedBytes s f = .ok d ∧ storedHash s f = .ok st ∧ hashBy s.config f.edm d = some (be st)
  /-- R31 (e), `ErrorHash` -/
  errorHash : s.status = .errorHash → ∀ f, frameHeader s = .ok f →
    0 < hashSize s.config f.edm ∧
      ∃ d st, hashedBytes s f = .ok d ∧ storedHash s f = .ok st ∧ hashBy s.config f.edm d ≠ some (be st)
  /-- R31 (f) -/
  overflow : s.status = .errorOverflow →
    s.length = 3 ∧ ∀ cap, s.capacity = some cap → ∃ f, frameHeader s = .ok f ∧ cap < totalSize s.config f

/-- The block's four items and its build are the same, the buffer byte for byte (10_state.md R20). -/
def SameBlock (s t : State) : Prop :=
  t.config = s.config ∧ t.status = s.status ∧ t.length = s.length ∧ t.capacity = s.capacity ∧
    ∀ a, t.buf.read a = s.buf.read a

/-- Everything but `status`, `length`, the buffer and the command's result is the same. -/
def SameRest (s t : State) : Prop :=
  t.config = s.config ∧ t.capacity = s.capacity ∧ t.fnResult = s.fnResult ∧ t.soft = s.soft ∧
    t.inputs = s.inputs ∧ t.freeCount = s.freeCount

/-- DECODE stored `b` at index `length` and returned the status it left (44_frame_decoder.md R182). -/
def StoredByte (s t : State) (b : Byte) : Prop :=
  t.length = s.length + 1 ∧ t.cmdResult = .status t.status ∧
    (∀ a, t.buf.read a = if a = s.length then some b else s.buf.read a) ∧ SameRest s t

/-- The commands of the block, the operations that have a command word (30_encoding.md R91). -/
def commandInstr : Instr → Bool
  | .decode _ | .reset | .init _ | .calchash => true
  | .unpack _ _ | .pack _ | .widths _ | .totalsize _ | .offsets _ => false
  | .edmNone | .edmRetx3 | .edmFec => false
  | .checksum8 _ | .crc8 _ | .crc16 _ | .crc32 _ | .userhash _ => false
  | .ndb0 | .ndb1 | .ndb2 | .ndb3 | .ndb4 | .ndb5 | .ndb6 | .ndb7 => false
  | .ndb8 | .ndb9 | .ndb10 | .ndb11 | .ndb12 | .ndb13 | .ndb14 | .ndb15 => false
  | .tosize _ | .fromsize _ | .hashsize _ | .hash _ _ => false
  | .crc8Table _ | .crc16Table _ | .crc32Table _ => false
  | .encapsulate _ _ | .removepadding _ _ => false
  | .getfieldHeader | .getfieldDestAddress | .getfieldSourceAddress | .getfieldProtocolFlags => false
  | .getfieldData | .getfieldHash | .getfieldInvalid => false

/-- The GETFIELD rows: functions that read the frame in the buffer (45_software_collaborators.md R214). -/
def getfieldInstr : Instr → Bool
  | .getfieldHeader | .getfieldDestAddress | .getfieldSourceAddress | .getfieldProtocolFlags => true
  | .getfieldData | .getfieldHash | .getfieldInvalid => true
  | _ => false

/-- `FEED` (30_encoding.md R102): one DECODE for each byte, in order, stopping where one stops. -/
def feed : List Byte → State → Outcome
  | [], s => .next s
  | b :: bs, s =>
    match exec (.decode b) s with
    | .next t => feed bs t
    | .fault e => .fault e
    | .refused r => .refused r

/-- The same state in a build with the other form of the CRC engines (00_scope.md R8). -/
def State.withImpl (impl : HashImpl) (s : State) : State :=
  { s with config := { s.config with hashImpl := impl } }

/-- An outcome with its next state changed. -/
def mapNext (g : State → State) : Outcome → Outcome
  | .next t => .next (g t)
  | .fault e => .fault e
  | .refused r => .refused r

end Sys2Proof.Machine
end

