-- ==== Sys2Proof/Certificates/Slice0/Obligations.lean ====
section
/-! DEFINITION. The statements about the block, and the arithmetic of the spec's pseudocode on naturals that some of
them are held against. -/

namespace Sys2Proof.Reference

open Sys2Proof.Machine

/-- One bit of a reflected CRC, on naturals (42_hash_engine.md R143, R145). -/
def reflectedBit (poly c : Nat) : Nat := if c % 2 = 1 then (c >>> 1) ^^^ poly else c >>> 1

/-- One bit of the CRC-16, on naturals (R144). -/
def forwardBit (c : Nat) : Nat :=
  if (c >>> 15) % 2 = 1 then ((c <<< 1) ^^^ 0x1021) &&& 0xFFFF else (c <<< 1) &&& 0xFFFF

/-- Eight steps. -/
def eight (g : Nat → Nat) (c : Nat) : Nat := g (g (g (g (g (g (g (g c)))))))

/-- CRC8 (R143). -/
def crc8 (d : List Byte) : Nat := d.foldl (fun acc b => eight (reflectedBit 0x8C) (acc ^^^ b.toNat)) 0x00

/-- CRC16 (R144). -/
def crc16 (d : List Byte) : Nat := d.foldl (fun acc b => eight forwardBit (acc ^^^ (b.toNat <<< 8))) 0x0000

/-- CRC32 (R145). -/
def crc32 (d : List Byte) : Nat :=
  d.foldl (fun acc b => eight (reflectedBit 0xEDB88320) (acc ^^^ b.toNat)) 0xFFFFFFFF ^^^ 0xFFFFFFFF

/-- CRC8 by table T8 (43_hash_tables.md R173). -/
def crc8ByTable (d : List Byte) : Nat := d.foldl (fun acc b => (t8.getD (acc ^^^ b.toNat) 0).toNat) 0x00

/-- CRC16 by table T16 (R174). -/
def crc16ByTable (d : List Byte) : Nat :=
  d.foldl (fun acc b => ((acc <<< 8) &&& 0xFFFF) ^^^ (t16.getD ((acc >>> 8) ^^^ b.toNat) 0).toNat) 0x0000

/-- CRC32 by table T32 (R175). -/
def crc32ByTable (d : List Byte) : Nat :=
  d.foldl (fun acc b => (acc >>> 8) ^^^ (t32.getD ((acc ^^^ b.toNat) &&& 0xFF) 0).toNat) 0xFFFFFFFF ^^^ 0xFFFFFFFF

/-- GETFIELD's steps 3 to 5 for a big-endian field at offset `o` of width `w` (45_software_collaborators.md R214). -/
def numberField (s : State) (o w : Nat) : FnResult :=
  if w = 0 then .fieldError .frameFormat
  else if s.length < o + w then .fieldError .shortFrame
  else .field w (.number (be (s.slice o w)))

/-- The same for the payload, copied as bytes (R217). -/
def dataField (s : State) (o w : Nat) : FnResult :=
  if w = 0 then .fieldError .frameFormat
  else if s.length < o + w then .fieldError .shortFrame
  else .field w (.data (s.slice o w))

/-- The header of a request with `ndb` from FROMSIZE (R211). -/
def requestHeader (q : Request) : HeaderFields :=
  { dab := q.dab, sab := q.sab, pfb := q.pfb, ack := q.ack, cmd := q.cmd, edm := q.edm,
    ndb := fromSize q.data.length }

/-- The payload region of a request whose tier is `ps` bytes (R211); empty where the data do not fit a tier (R131). -/
def paddedData (q : Request) (ps : Nat) : List Byte :=
  if ps < q.data.length then []
  else if q.placement = .after then q.data ++ List.replicate (ps - q.data.length) 0
  else List.replicate (ps - q.data.length) 0 ++ q.data

/-- `body` of a request (R211). -/
def requestBody (q : Request) : List Byte :=
  [(packHeader (requestHeader q)).1, (packHeader (requestHeader q)).2] ++ bytesBE q.destAddress q.dab.toNat
    ++ bytesBE q.sourceAddress q.sab.toNat ++ bytesBE q.protocolFlags q.pfb.toNat
    ++ paddedData q (toSize (fromSize q.data.length))

end Sys2Proof.Reference

open Sys2Proof Sys2Proof.Machine

/-! ## Reset and initialisation -/

/-- R32: after hardware reset, by power-on or by the reset input, `Idle`, length 0, no capacity, no byte with a value;
DECODE and CALCHASH before the first successful INIT are refused. -/
def Obligations.HardwareResetGivesIdleAndNoValues : Prop :=
  (State.reset.status = .idle ∧ State.reset.length = 0 ∧ State.reset.capacity = none ∧
      ∀ a, State.reset.buf.read a = none) ∧
    (∀ s q, s.inputs = .rst :: q →
      ∃ t, step s = .next t ∧ t.status = .idle ∧ t.length = 0 ∧ t.capacity = none ∧ ∀ a, t.buf.read a = none) ∧
    (∀ s b, s.capacity = none →
      exec (.decode b) s = .refused .notInitialised ∧ exec .calchash s = .refused .notInitialised)

/-- R272: until an INIT succeeds (requested capacity at least 3), DECODE, RESET and CALCHASH are refused. -/
def Obligations.CommandsWaitForASuccessfulInit : Prop :=
  (∀ s, s.capacity = none →
      (∀ b, exec (.decode b) s = .refused .notInitialised) ∧ exec .reset s = .refused .notInitialised ∧
        exec .calchash s = .refused .notInitialised) ∧
    ∀ s c, (3 ≤ c.toNat → ∃ t, exec (.init c) s = .next t ∧ t.capacity ≠ none) ∧
      (c.toNat < 3 → ∃ t, exec (.init c) s = .next t ∧ t.capacity = s.capacity)

/-- R180, R33: INIT below 3 is rejected and changes nothing but the result; otherwise it loads the clamped capacity,
in any status. -/
def Obligations.InitLoadsTheClampedCapacityOrRejects : Prop :=
  ∀ s c,
    (c.toNat < 3 → exec (.init c) s = .next { s with cmdResult := .error .bufferTooSmall }) ∧
      (3 ≤ c.toNat → exec (.init c) s = .next
        { s with status := .idle, length := 0, buf := [], capacity := some (min c.toNat s.config.maxFrameSize),
                 cmdResult := .ok })

/-- R181, R34: RESET in any status; the capacity stays and no byte keeps a value. -/
def Obligations.ResetReturnsToIdle : Prop :=
  ∀ s, (∀ cap, s.capacity = some cap → exec .reset s = .next
        { s with status := .idle, length := 0, buf := [], cmdResult := .status .idle }) ∧
      (s.capacity = none → exec .reset s = .refused .notInitialised)

/-! ## DECODE -/

/-- R183: in `Idle` a byte that is not the sync value is discarded; the sync value is stored at index 0. -/
def Obligations.DecodeInIdleWaitsForSync : Prop :=
  ∀ s cap, s.capacity = some cap → s.status = .idle →
    (∀ b, b ≠ s.config.sync → exec (.decode b) s = .next { s with cmdResult := .status .idle }) ∧
      ∃ t, exec (.decode s.config.sync) s = .next t ∧ t.status = .incomplete ∧ t.length = 1 ∧
        t.cmdResult = .status .incomplete ∧
        (∀ a, t.buf.read a = if a = 0 then some s.config.sync else s.buf.read a) ∧ SameRest s t

/-- R183, corner case: any number of non-sync bytes leaves no trace. -/
def Obligations.NoiseBeforeSyncLeavesNoTrace : Prop :=
  ∀ s cap bs, s.capacity = some cap → s.status = .idle → bs ≠ [] → (∀ b ∈ bs, b ≠ s.config.sync) →
    feed bs s = .next { s with cmdResult := .status .idle }

/-- R184: the two header bytes are appended; on the second the overflow test, then the completion test. -/
def Obligations.DecodeOfTheHeaderBytes : Prop :=
  ∀ s cap b, FrameInv s → s.capacity = some cap → s.status = .incomplete →
    (s.length = 1 → ∃ t, exec (.decode b) s = .next t ∧ StoredByte s t b ∧ t.status = .incomplete) ∧
      (s.length = 2 → ∃ hdb2, s.buf.read 1 = some hdb2 ∧
        ∃ t, exec (.decode b) s = .next t ∧ StoredByte s t b ∧
          t.status = if cap < totalSize s.config (unpackHeader hdb2 b) then .errorOverflow
            else if totalSize s.config (unpackHeader hdb2 b) = 3 then .valid
            else .incomplete)

/-- R185, R186: once the header is known the byte is appended; at `length' = total` the frame is `Valid` where it has
no hash or the hash of its bytes from `HASH_FIRST_INDEX` to the hash equals the stored one, otherwise `ErrorHash`. -/
def Obligations.DecodeAfterTheHeaderDecidesAtTotal : Prop :=
  ∀ s cap b f, FrameInv s → s.capacity = some cap → s.status = .incomplete → 3 ≤ s.length →
    frameHeader s = .ok f →
    ∃ t, exec (.decode b) s = .next t ∧ StoredByte s t b ∧
      t.status =
        if s.length + 1 = totalSize s.config f then
          if hashSize s.config f.edm = 0 ∨
              hashBy s.config f.edm
                (((s.frameBytes ++ [b]).take (totalSize s.config f - hashSize s.config f.edm)).drop
                  s.config.hashFirstIndex.val)
              = some (be ((s.frameBytes ++ [b]).drop (totalSize s.config f - hashSize s.config f.edm)))
          then .valid
          else .errorHash
        else .incomplete

/-- R188: overflow is decided once, on the second header byte, exactly where the total is above the capacity; the
bytes stored are kept and every later byte is ignored. -/
def Obligations.OverflowExactlyWhereTotalExceedsCapacity : Prop :=
  ∀ s cap b, FrameInv s → s.capacity = some cap → s.status ≠ .errorOverflow →
    ∃ t, exec (.decode b) s = .next t ∧
      (t.status = .errorOverflow ↔
        s.status = .incomplete ∧ s.length = 2 ∧
          ∃ hdb2, s.buf.read 1 = some hdb2 ∧ cap < totalSize s.config (unpackHeader hdb2 b)) ∧
      (t.status = .errorOverflow →
        t.length = 3 ∧ (∀ a, t.buf.read a = if a = 2 then some b else s.buf.read a) ∧
          ∀ b', exec (.decode b') t = .next t)

/-- R189: in a terminal status a byte is ignored, and the status returned. -/
def Obligations.TerminalStatusIgnoresBytes : Prop :=
  ∀ s cap b, s.capacity = some cap → (s.status = .valid ∨ s.status = .errorHash ∨ s.status = .errorOverflow) →
    exec (.decode b) s = .next { s with cmdResult := .status s.status }

/-- Frame of DECODE, in every state: the only address it can store to is 0 in `Idle` and `length` otherwise; nothing
but the status, the length, that byte and the result can change. -/
def Obligations.DecodeStoresAtOneIndexOnly : Prop :=
  ∀ s t b, exec (.decode b) s = .next t →
    SameRest s t ∧
      (∀ a, a ≠ (if s.status = .idle then 0 else s.length) → t.buf.read a = s.buf.read a) ∧
      ((s.status = .idle ∧ b ≠ s.config.sync) ∨ s.terminal = true →
        t.length = s.length ∧ t.status = s.status ∧ ∀ a, t.buf.read a = s.buf.read a)

/-- R191 (an inference of the spec): a frame that fits takes exactly its total of DECODEs from its sync byte, one that
does not takes three. -/
def Obligations.FrameTakesItsTotalOfDecodes : Prop :=
  ∀ s cap hdb2 hdb1 rest, FrameInv s → s.capacity = some cap → s.status = .idle →
    (totalSize s.config (unpackHeader hdb2 hdb1) ≤ cap →
      3 + rest.length = totalSize s.config (unpackHeader hdb2 hdb1) →
      (∀ k, 1 ≤ k → k < 3 + rest.length →
        ∃ t, feed ((s.config.sync :: hdb2 :: hdb1 :: rest).take k) s = .next t ∧ t.status = .incomplete ∧
          t.length = k) ∧
      ∃ t, feed (s.config.sync :: hdb2 :: hdb1 :: rest) s = .next t ∧ (t.status = .valid ∨ t.status = .errorHash) ∧
        t.frameBytes = s.config.sync :: hdb2 :: hdb1 :: rest) ∧
    (cap < totalSize s.config (unpackHeader hdb2 hdb1) →
      ∃ t, feed [s.config.sync, hdb2, hdb1] s = .next t ∧ t.status = .errorOverflow ∧ t.length = 3)

/-! ## CALCHASH -/

/-- R149: the three checks in order, then the hash of `buf[HASH_FIRST_INDEX..hashOffset)`; the status is not read and
nothing but the result is written. -/
def Obligations.CalchashChecksThenHashes : Prop :=
  ∀ s cap, FrameInv s → s.capacity = some cap →
    (s.length < 3 → exec .calchash s = .next { s with cmdResult := .error .unknownFormat }) ∧
      ∀ f, frameHeader s = .ok f →
        (hashSize s.config f.edm = 0 → exec .calchash s = .next { s with cmdResult := .error .frameFormat }) ∧
        (hashSize s.config f.edm ≠ 0 → s.length < (offsetsOf f).hash + hashSize s.config f.edm →
          exec .calchash s = .next { s with cmdResult := .error .shortFrame }) ∧
        (hashSize s.config f.edm ≠ 0 → (offsetsOf f).hash + hashSize s.config f.edm ≤ s.length →
          ∃ v, hashBy s.config f.edm ((s.frameBytes.take (offsetsOf f).hash).drop s.config.hashFirstIndex.val) = some v ∧
            exec .calchash s = .next { s with cmdResult := .hash (hashSize s.config f.edm) v })

/-- R149, corner cases: on a `Valid` frame with a hash the value is the stored one, on an `ErrorHash` frame another,
on an `ErrorOverflow` frame there is none. -/
def Obligations.CalchashAgreesWithTheStatus : Prop :=
  ∀ s cap f, FrameInv s → s.capacity = some cap → frameHeader s = .ok f → hashSize s.config f.edm ≠ 0 →
    (s.status = .valid → exec .calchash s = .next
      { s with
        cmdResult := .hash (hashSize s.config f.edm) (be (s.slice (offsetsOf f).hash (hashSize s.config f.edm))) }) ∧
    (s.status = .errorHash → ∃ v, v ≠ be (s.slice (offsetsOf f).hash (hashSize s.config f.edm)) ∧
      exec .calchash s = .next { s with cmdResult := .hash (hashSize s.config f.edm) v }) ∧
    (s.status = .errorOverflow → exec .calchash s = .next { s with cmdResult := .error .shortFrame })

/-! ## Whole-machine rules -/

/-- The invariants of R31 hold right after hardware reset. -/
def Obligations.FrameInvHoldsAtReset : Prop := FrameInv State.reset

/-- R31 (an inference of the spec): every step keeps the invariants, from every state that has them. -/
def Obligations.StepKeepsFrameInv : Prop := ∀ s t, FrameInv s → step s = .next t → FrameInv t

/-- Every step keeps the buffer's canonical form, in every state (log 15). -/
def Obligations.StepKeepsMemoryCanonical : Prop := ∀ s t, s.buf.wf → step s = .next t → t.buf.wf

/-- R284, R245: in a state with the invariants every operation runs to completion: no fault, and no refusal but that
of DECODE, RESET and CALCHASH before the first successful INIT. That GETFIELD runs before the first INIT is the model's
choice (log 21). -/
def Obligations.EveryOperationRunsToCompletion : Prop :=
  ∀ i s, FrameInv s → (s.capacity ≠ none ∨ commandInstr i = false ∨ ∃ c, i = .init c) → ∃ t, exec i s = .next t

/-- R250: RESET and a successful INIT leave a terminal status, with length 0 and no byte a value, and INIT reloads the
capacity; every other operation leaves the status, the length, the capacity and every byte. -/
def Obligations.OnlyResetAndInitLeaveATerminalStatus : Prop :=
  ∀ i s t, s.terminal = true → exec i s = .next t →
    ((i ≠ .reset ∧ ∀ c, i = .init c → c.toNat < 3) →
      t.status = s.status ∧ t.length = s.length ∧ t.capacity = s.capacity ∧ ∀ a, t.buf.read a = s.buf.read a) ∧
    (i = .reset →
      t.status = .idle ∧ t.length = 0 ∧ t.capacity = s.capacity ∧ ∀ a, t.buf.read a = none) ∧
    ∀ c, i = .init c → 3 ≤ c.toNat →
      t.status = .idle ∧ t.length = 0 ∧ t.capacity = some (min c.toNat s.config.maxFrameSize) ∧
        ∀ a, t.buf.read a = none

/-- R23: a successful INIT leaves the capacity between 3 and `MAX_FRAME_SIZE`, at most 528; every other operation, and
an INIT below 3, leaves it as it was; before the first successful INIT it has no value. -/
def Obligations.OnlyInitWritesTheCapacity : Prop :=
  State.reset.capacity = none ∧
    ∀ i s t, s.config.wf → exec i s = .next t →
      ((∀ c, i = .init c → c.toNat < 3) → t.capacity = s.capacity) ∧
      ∀ c, i = .init c → 3 ≤ c.toNat →
        ∃ k, t.capacity = some k ∧ k = min c.toNat s.config.maxFrameSize ∧ 3 ≤ k ∧ k ≤ s.config.maxFrameSize ∧ k ≤ 528

/-- R51, R35: no operation but DECODE stores a byte; RESET and a successful INIT leave no byte a value. -/
def Obligations.OnlyDecodeStoresABufferByte : Prop :=
  ∀ i s t, exec i s = .next t →
    (∃ b, i = .decode b) ∨ (∀ a, t.buf.read a = s.buf.read a) ∨
      ((i = .reset ∨ ∃ c, i = .init c ∧ 3 ≤ c.toNat) ∧ ∀ a, t.buf.read a = none)

/-- Frame of every operation that is no command: the block's four items, its build, the command's result and the
driver's queue stay; only ENCAPSULATE touches the software Frame. -/
def Obligations.FunctionsLeaveTheBlockAlone : Prop :=
  ∀ i s t, commandInstr i = false → exec i s = .next t →
    SameBlock s t ∧ t.cmdResult = s.cmdResult ∧ t.inputs = s.inputs ∧
      ((∀ c q, i ≠ .encapsulate c q) → t.soft = s.soft ∧ t.freeCount = s.freeCount)

/-- R90: a function's result depends on its arguments (and the build) alone. GETFIELD reads the frame and is left
out. -/
def Obligations.FunctionResultsDependOnArgumentsAlone : Prop :=
  ∀ i s s' t, commandInstr i = false → getfieldInstr i = false → s.config = s'.config → exec i s = .next t →
    ∃ t', exec i s' = .next t' ∧ t'.fnResult = t.fnResult

/-- R36: the parameters are the same before and after every step. -/
def Obligations.StepKeepsTheBuild : Prop := ∀ s t, step s = .next t → t.config = s.config

/-! ## Steps and encodings -/

/-- A step takes the oldest thing presented: an operation's packet runs the operation it decodes to on the state
without it; a table word presented with `withFetchWord` runs what it decodes to (log 2, log 3). -/
def Obligations.StepRunsTheDecodedOperation : Prop :=
  (∀ s p q i, s.inputs = .op p :: q → decode p = .ok i → step s = exec i { s with inputs := q }) ∧
    (∀ s p q e, s.inputs = .op p :: q → decode p = .error e → step s = .refused (.undecodable e)) ∧
    ∀ s nbits w i, decodeTableWord nbits w = some i → step (s.withFetchWord nbits w) = exec i s

/-- Decoding the packet of a well-formed operation gives it back, every operand at every value (log 1). -/
def Obligations.DecodeInvertsEncode : Prop := ∀ i : Instr, i.wellFormed = true → decode (encode i) = .ok i

/-- R91: every 18-bit command word is the command its opcode names, the ignored bits whatever they are. -/
def Obligations.CommandWordsDecodeByOpcode : Prop :=
  ∀ (op : BitVec 2) (arg : BitVec 16),
    decode (packet ((0 : BitVec 6) ++ op ++ arg) Selector.command.code []) = .ok
      (if op = 0 then .decode (arg.setWidth 8)
      else if op = 1 then .reset
      else if op = 2 then .init arg
      else .calchash)

/-- Words written out from the spec's encodings (30_encoding.md R83, R91 to R93, R213; 95_test_vectors.md part 3)
decode to the operations they stand for. The bits of the words are the spec's. Which row a bare 16-bit or 8-bit word is
read as (CRC16, NDB_13, GETFIELD Hash) is the model's choice (log 2: the spec says that the header rows are not
alternatives to decode among), and the last word stands in the model's packet (log 1). -/
def Obligations.SpecWordsDecode : Prop :=
  decodeTableWord 24 0x20010 = some (.init 16) ∧ decodeTableWord 24 0x00054 = some (.decode 0x54) ∧
    decodeTableWord 24 0x10000 = some .reset ∧ decodeTableWord 24 0x30000 = some .calchash ∧
    decodeTableWord 16 0x0040 = some (.crc16 []) ∧ decodeTableWord 16 0x000D = some .ndb13 ∧
    decodeTableWord 8 0x05 = some .getfieldHash ∧
    decode [0x90, 0x40, 0x00, 0x01] = .ok (.unpack 0x40 0x90)

/-! ## Header codec -/

/-- R110: PACK's two bytes. -/
def Obligations.PackBuildsTheHeaderBytes : Prop :=
  ∀ s f, ∃ hdb2 hdb1, exec (.pack f) s = .next { s with fnResult := .headerBytes hdb2 hdb1 } ∧
    hdb2.toNat = (f.dab.toNat <<< 6) ||| (f.sab.toNat <<< 4) ||| (f.pfb.toNat <<< 2) ||| f.ack.toNat ∧
    hdb1.toNat = (f.cmd.toNat <<< 7) ||| (f.edm.toNat <<< 4) ||| f.ndb.toNat

/-- R111: UNPACK's seven fields. -/
def Obligations.UnpackTakesTheHeaderFields : Prop :=
  ∀ s hdb2 hdb1, ∃ f, exec (.unpack hdb2 hdb1) s = .next { s with fnResult := .header f } ∧
    f.dab.toNat = (hdb2.toNat >>> 6) &&& 3 ∧ f.sab.toNat = (hdb2.toNat >>> 4) &&& 3 ∧
    f.pfb.toNat = (hdb2.toNat >>> 2) &&& 3 ∧ f.ack.toNat = hdb2.toNat &&& 3 ∧
    f.cmd.toNat = (hdb1.toNat >>> 7) &&& 1 ∧ f.edm.toNat = (hdb1.toNat >>> 4) &&& 7 ∧
    f.ndb.toNat = hdb1.toNat &&& 15

/-- R115 (an inference of the spec): PACK and UNPACK are inverse to each other. -/
def Obligations.PackAndUnpackAreInverse : Prop :=
  (∀ s f hdb2 hdb1, exec (.pack f) s = .next { s with fnResult := .headerBytes hdb2 hdb1 } →
      exec (.unpack hdb2 hdb1) s = .next { s with fnResult := .header f }) ∧
    ∀ s f hdb2 hdb1, exec (.unpack hdb2 hdb1) s = .next { s with fnResult := .header f } →
      exec (.pack f) s = .next { s with fnResult := .headerBytes hdb2 hdb1 }

/-- R112: WIDTHS. -/
def Obligations.WidthsAreTheFieldsAndTables : Prop :=
  ∀ s f, exec (.widths f) s = .next
    { s with
      fnResult := .widths
        { da := f.dab.toNat, sa := f.sab.toNat, pf := f.pfb.toNat, data := toSize f.ndb,
          hash := hashSize s.config f.edm } }

/-- R113: TOTALSIZE, with its least and greatest value, both attained. -/
def Obligations.TotalSizeIsTheSumOfTheRegions : Prop :=
  ∀ s f, exec (.totalsize f) s = .next
      { s with
        fnResult := .total
          (1 + 2 + f.dab.toNat + f.sab.toNat + f.pfb.toNat + toSize f.ndb + hashSize s.config f.edm) } ∧
    3 ≤ 1 + 2 + f.dab.toNat + f.sab.toNat + f.pfb.toNat + toSize f.ndb + hashSize s.config f.edm ∧
    1 + 2 + f.dab.toNat + f.sab.toNat + f.pfb.toNat + toSize f.ndb + hashSize s.config f.edm
      ≤ 3 + 9 + 512 + max 4 s.config.userHashSize.val ∧
    exec (.totalsize { dab := 0, sab := 0, pfb := 0, ack := f.ack, cmd := f.cmd, edm := 0, ndb := 0 }) s
      = .next { s with fnResult := .total 3 } ∧
    exec (.totalsize { dab := 3, sab := 3, pfb := 3, ack := f.ack, cmd := f.cmd, edm := 5, ndb := 14 }) s
      = .next { s with fnResult := .total (3 + 9 + 512 + max 4 s.config.userHashSize.val) }

/-- R114 (an inference of the spec): OFFSETS. -/
def Obligations.OffsetsFollowEachOther : Prop :=
  ∀ s f, exec (.offsets f) s = .next
    { s with
      fnResult := .offsets
        { da := 3
          sa := 3 + f.dab.toNat
          pf := 3 + f.dab.toNat + f.sab.toNat
          data := 3 + f.dab.toNat + f.sab.toNat + f.pfb.toNat
          hash := 3 + f.dab.toNat + f.sab.toNat + f.pfb.toNat + toSize f.ndb } }

/-- R116 (an inference of the spec): bounds of the layout. -/
def Obligations.HeaderLayoutIsBounded : Prop :=
  ∀ (c : Config) (f : HeaderFields),
    3 ≤ totalSize c f ∧ totalSize c f ≤ 528 ∧ 3 ≤ (offsetsOf f).da ∧ (offsetsOf f).da ≤ (offsetsOf f).sa ∧
      (offsetsOf f).sa ≤ (offsetsOf f).pf ∧ (offsetsOf f).pf ≤ (offsetsOf f).data ∧
      (offsetsOf f).data ≤ (offsetsOf f).hash ∧ (offsetsOf f).hash ≤ totalSize c f ∧ (offsetsOf f).hash ≤ 524 ∧
      totalSize c f = (offsetsOf f).hash + hashSize c f.edm

/-! ## Size tiers -/

/-- R130: TOSIZE on its sixteen codes. -/
def Obligations.TosizeGivesTheTier : Prop :=
  ∀ s (ndb : BitVec 4), ∃ n, exec (.tosize ndb) s = .next { s with fnResult := .payloadWidth n } ∧
    (ndb.toNat ≤ 8 → n = ndb.toNat) ∧ (9 ≤ ndb.toNat → ndb.toNat ≤ 14 → n = 16 * 2 ^ (ndb.toNat - 9)) ∧
    (ndb.toNat = 15 → n = 0)

/-- The payload bytes of the sixteen ndb codes, the values of R93's table. That a code row is an operation which answers
its payload width is the model's choice (log 22). -/
def Obligations.NdbCodesGiveTheirPayload : Prop :=
  ∀ s, exec .ndb0 s = .next { s with fnResult := .payloadWidth 0 } ∧
    exec .ndb1 s = .next { s with fnResult := .payloadWidth 1 } ∧
    exec .ndb2 s = .next { s with fnResult := .payloadWidth 2 } ∧
    exec .ndb3 s = .next { s with fnResult := .payloadWidth 3 } ∧
    exec .ndb4 s = .next { s with fnResult := .payloadWidth 4 } ∧
    exec .ndb5 s = .next { s with fnResult := .payloadWidth 5 } ∧
    exec .ndb6 s = .next { s with fnResult := .payloadWidth 6 } ∧
    exec .ndb7 s = .next { s with fnResult := .payloadWidth 7 } ∧
    exec .ndb8 s = .next { s with fnResult := .payloadWidth 8 } ∧
    exec .ndb9 s = .next { s with fnResult := .payloadWidth 16 } ∧
    exec .ndb10 s = .next { s with fnResult := .payloadWidth 32 } ∧
    exec .ndb11 s = .next { s with fnResult := .payloadWidth 64 } ∧
    exec .ndb12 s = .next { s with fnResult := .payloadWidth 128 } ∧
    exec .ndb13 s = .next { s with fnResult := .payloadWidth 256 } ∧
    exec .ndb14 s = .next { s with fnResult := .payloadWidth 512 } ∧
    exec .ndb15 s = .next { s with fnResult := .payloadWidth 0 }

/-- R131: FROMSIZE on every natural: 0 above 512, the size itself up to 8, otherwise the least code that is large
enough. -/
def Obligations.FromsizeGivesTheLeastTier : Prop :=
  ∀ s n, ∃ c, exec (.fromsize n) s = .next { s with fnResult := .tierCode c } ∧
    (512 < n → c = 0) ∧ (n ≤ 8 → c.toNat = n) ∧
    (8 < n → n ≤ 512 → 9 ≤ c.toNat ∧ c.toNat ≤ 14 ∧ n ≤ toSize c ∧
      ∀ c' : BitVec 4, 9 ≤ c'.toNat → c'.toNat ≤ 14 → n ≤ toSize c' → c.toNat ≤ c'.toNat)

/-- R132 (in part an inference of the spec): the laws of the tier table. -/
def Obligations.TierTableLaws : Prop :=
  (∀ n, n ≤ 512 → n ≤ toSize (fromSize n) ∧ (toSize (fromSize n) = n ↔ ∃ c, toSize c = n)) ∧
    (∀ n, 512 < n → fromSize n = 0) ∧
    (∀ m n, m ≤ n → n ≤ 512 → (fromSize m).toNat ≤ (fromSize n).toNat) ∧
    (∀ c : BitVec 4, c.toNat ≤ 14 → fromSize (toSize c) = c) ∧ fromSize (toSize 15) = 0 ∧
    ∀ c c' : BitVec 4, c.toNat < c'.toNat → c'.toNat ≤ 14 → toSize c < toSize c'

/-! ## Hash engines -/

/-- R140: HASHSIZE on its eight codes. -/
def Obligations.HashsizeOfTheEightMethods : Prop :=
  ∀ s, exec (.hashsize 0) s = .next { s with fnResult := .hashWidth 0 } ∧
    exec (.hashsize 1) s = .next { s with fnResult := .hashWidth 0 } ∧
    exec (.hashsize 2) s = .next { s with fnResult := .hashWidth 1 } ∧
    exec (.hashsize 3) s = .next { s with fnResult := .hashWidth 1 } ∧
    exec (.hashsize 4) s = .next { s with fnResult := .hashWidth 2 } ∧
    exec (.hashsize 5) s = .next { s with fnResult := .hashWidth 4 } ∧
    exec (.hashsize 6) s = .next { s with fnResult := .hashWidth 0 } ∧
    exec (.hashsize 7) s = .next { s with fnResult := .hashWidth s.config.userHashSize.val } ∧
    s.config.userHashSize.val ≤ 4

/-- R92, R96: the three codes without a hash answer width 0 and no value (the form of the answer is log 22's). -/
def Obligations.MethodsWithoutAHash : Prop :=
  ∀ s, exec .edmNone s = .next { s with fnResult := .hash 0 none } ∧
    exec .edmRetx3 s = .next { s with fnResult := .hash 0 none } ∧
    exec .edmFec s = .next { s with fnResult := .hash 0 none }

/-- R142: CHECKSUM8 is the sum of all bytes modulo 256. -/
def Obligations.Checksum8IsTheSumModulo256 : Prop :=
  ∀ s d, s.config.checksumInit = 0 →
    exec (.checksum8 d) s = .next { s with fnResult := .hash 1 (some ((d.map BitVec.toNat).sum % 256)) }

/-- R143: CRC8, held against the pseudocode on naturals. -/
def Obligations.Crc8FollowsItsBitRule : Prop :=
  ∀ s d, s.config.crc8 = Config.standard.crc8 →
    exec (.crc8 d) s = .next { s with fnResult := .hash 1 (some (Reference.crc8 d)) }

/-- R144: CRC16, held against the pseudocode on naturals. -/
def Obligations.Crc16FollowsItsBitRule : Prop :=
  ∀ s d, s.config.crc16 = Config.standard.crc16 →
    exec (.crc16 d) s = .next { s with fnResult := .hash 2 (some (Reference.crc16 d)) }

/-- R145: CRC32, held against the pseudocode on naturals. -/
def Obligations.Crc32FollowsItsBitRule : Prop :=
  ∀ s d, s.config.crc32 = Config.standard.crc32 →
    exec (.crc32 d) s = .next { s with fnResult := .hash 4 (some (Reference.crc32 d)) }

/-- R170 to R172: the listed tables have 256 entries, each the one of the generating rule. -/
def Obligations.ListedTablesFollowTheGeneratingRule : Prop :=
  t8.length = 256 ∧ t16.length = 256 ∧ t32.length = 256 ∧
    (∀ i : Byte, t8[i.toNat]? = some (crcEntry Config.standard.crc8 i)) ∧
    (∀ i : Byte, t16[i.toNat]? = some (crcEntry Config.standard.crc16 i)) ∧
    ∀ i : Byte, t32[i.toNat]? = some (crcEntry Config.standard.crc32 i)

/-- R173 to R175: the table rows, held against the table pseudocode with the listed tables. -/
def Obligations.TableRowsReadTheListedTables : Prop :=
  ∀ s d,
    (s.config.crc8 = Config.standard.crc8 →
      exec (.crc8Table d) s = .next { s with fnResult := .hash 1 (some (Reference.crc8ByTable d)) }) ∧
    (s.config.crc16 = Config.standard.crc16 →
      exec (.crc16Table d) s = .next { s with fnResult := .hash 2 (some (Reference.crc16ByTable d)) }) ∧
    (s.config.crc32 = Config.standard.crc32 →
      exec (.crc32Table d) s = .next { s with fnResult := .hash 4 (some (Reference.crc32ByTable d)) })

/-- R150: for every build and every byte sequence the table-driven row gives what the bit-serial row gives, and
`HASH_IMPL` changes no hash. -/
def Obligations.TableFormEqualsBitSerialForm : Prop :=
  ∀ s d, exec (.crc8Table d) s = exec (.crc8 d) s ∧ exec (.crc16Table d) s = exec (.crc16 d) s ∧
    exec (.crc32Table d) s = exec (.crc32 d) s ∧
    (∃ v, v < 256 ∧ exec (.crc8Table d) s = .next { s with fnResult := .hash 1 (some v) }) ∧
    (∃ v, v < 256 ^ 2 ∧ exec (.crc16Table d) s = .next { s with fnResult := .hash 2 (some v) }) ∧
    (∃ v, v < 256 ^ 4 ∧ exec (.crc32Table d) s = .next { s with fnResult := .hash 4 (some v) }) ∧
    ∀ edm, hashBy (s.withImpl .table).config edm d = hashBy (s.withImpl .bitwise).config edm d

/-- R8: which form of the engines a build contains changes no result of any operation. -/
def Obligations.HashImplChangesNoResult : Prop :=
  ∀ (i : Instr) (s : State), exec i (s.withImpl .table) = mapNext (State.withImpl .table) (exec i (s.withImpl .bitwise))

/-- R146: USERHASH keeps the low-order `USER_HASH_SIZE` bytes of what the unit answers; the default unit gives 0. -/
def Obligations.UserhashKeepsTheLowBytes : Prop :=
  ∀ s d, ∃ v, exec (.userhash d) s = .next { s with fnResult := .hash s.config.userHashSize.val (some v) } ∧
    v = userHashUnit s.config.userHash d % 256 ^ s.config.userHashSize.val ∧
    v < 256 ^ s.config.userHashSize.val ∧ (s.config.userHash = .constant 0 → v = 0)

/-- HASH dispatches on `edm` as in the pseudocode of R147, whichever form of the engines is built in. That HASH on 0, 1
and 6, for which the spec never invokes it, answers a next state with width 0 and no value is the model's choice
(log 25). -/
def Obligations.HashDispatchesOnTheMethod : Prop :=
  ∀ s d, exec (.hash 2 d) s = exec (.checksum8 d) s ∧ exec (.hash 3 d) s = exec (.crc8 d) s ∧
    exec (.hash 4 d) s = exec (.crc16 d) s ∧ exec (.hash 5 d) s = exec (.crc32 d) s ∧
    exec (.hash 7 d) s = exec (.userhash d) s ∧
    (∀ edm : BitVec 3, edm = 0 ∨ edm = 1 ∨ edm = 6 →
      exec (.hash edm d) s = .next { s with fnResult := .hash 0 none }) ∧
    ∀ edm, ∃ t, exec (.hash edm d) s = .next t

/-! ## Software around the block -/

/-- ENCAPSULATE lays the frame out as R211 says or fails with `ErrorOverflow` and a reported length of 0. The model's
choices in it: the software Frame (log 18), the status stored after a rejected call, which is whatever the free value
is, and its counter (log 19), and the hash over the decoder's range, which is `body` with `HASH_FIRST_INDEX` 1 and takes
in the sync byte with 0 (log 28). The empty payload above 512 bytes is R211's own marked inference. -/
def Obligations.EncapsulateLaysTheFrameOut : Prop :=
  ∀ s c q,
    (totalSize s.config (Reference.requestHeader q) ≤ c.toNat →
      ∃ bytes, exec (.encapsulate c q) s = .next { s with
          soft := { status := .valid, bytes := bytes },
          fnResult := .encapsulated .valid (totalSize s.config (Reference.requestHeader q)) } ∧
        bytes.length = totalSize s.config (Reference.requestHeader q) ∧
        (hashSize s.config q.edm = 0 → bytes = s.config.sync :: Reference.requestBody q) ∧
        (hashSize s.config q.edm ≠ 0 → ∃ v,
          hashBy s.config q.edm
            (if s.config.hashFirstIndex = 1 then Reference.requestBody q
              else s.config.sync :: Reference.requestBody q) = some v ∧
          bytes = s.config.sync :: Reference.requestBody q ++ bytesBE v (hashSize s.config q.edm))) ∧
    (c.toNat < totalSize s.config (Reference.requestHeader q) →
      ∃ stored, exec (.encapsulate c q) s = .next { s with
        soft := { status := stored, bytes := [] }, freeCount := s.freeCount + 1,
        fnResult := .encapsulated .errorOverflow 0 })

/-- R192 (a), R212 (a): a frame ENCAPSULATE makes, fed byte by byte to a decoder with room for it, ends `Valid`, and
GETFIELD gives back the header, the addresses and flags modulo their width, and the padded payload. -/
def Obligations.EncapsulateThenFeedIsValid : Prop :=
  ∀ s c cap q, FrameInv s → s.capacity = some cap → s.status = .idle →
    totalSize s.config (Reference.requestHeader q) ≤ c.toNat →
    totalSize s.config (Reference.requestHeader q) ≤ cap →
    ∃ t u, exec (.encapsulate c q) s = .next t ∧ t.soft.status = .valid ∧ feed t.soft.bytes t = .next u ∧
      u.status = .valid ∧
      exec .getfieldHeader u = .next { u with fnResult := .field 2 (.header (Reference.requestHeader q)) } ∧
      (q.dab ≠ 0 → exec .getfieldDestAddress u = .next
        { u with fnResult := .field q.dab.toNat (.number (q.destAddress % 256 ^ q.dab.toNat)) }) ∧
      (q.sab ≠ 0 → exec .getfieldSourceAddress u = .next
        { u with fnResult := .field q.sab.toNat (.number (q.sourceAddress % 256 ^ q.sab.toNat)) }) ∧
      (q.pfb ≠ 0 → exec .getfieldProtocolFlags u = .next
        { u with fnResult := .field q.pfb.toNat (.number (q.protocolFlags % 256 ^ q.pfb.toNat)) }) ∧
      (toSize (fromSize q.data.length) ≠ 0 → exec .getfieldData u = .next
        { u with
          fnResult := .field (toSize (fromSize q.data.length))
            (.data (Reference.paddedData q (toSize (fromSize q.data.length)))) })

/-- While the header is not stored every GETFIELD fails with `UnknownFormat`, the invalid selector too, and so does
CALCHASH on an initialised block (R215). That GETFIELD reads the block's buffer and runs before the first INIT is the
model's choice (log 21). -/
def Obligations.QueriesBeforeTheHeaderAreUnknownFormat : Prop :=
  ∀ s, s.length < 3 →
    exec .getfieldHeader s = .next { s with fnResult := .fieldError .unknownFormat } ∧
    exec .getfieldDestAddress s = .next { s with fnResult := .fieldError .unknownFormat } ∧
    exec .getfieldSourceAddress s = .next { s with fnResult := .fieldError .unknownFormat } ∧
    exec .getfieldProtocolFlags s = .next { s with fnResult := .fieldError .unknownFormat } ∧
    exec .getfieldData s = .next { s with fnResult := .fieldError .unknownFormat } ∧
    exec .getfieldHash s = .next { s with fnResult := .fieldError .unknownFormat } ∧
    exec .getfieldInvalid s = .next { s with fnResult := .fieldError .unknownFormat } ∧
    ∀ cap, s.capacity = some cap → exec .calchash s = .next { s with cmdResult := .error .unknownFormat }

/-- With the header stored, each GETFIELD's result: the validation order of R214, the offsets and widths of R216 (the
width 2 of `Header` is R216's own marked inference, D27) and the values of R217, read from the block's buffer
(log 21). -/
def Obligations.GetfieldReadsTheField : Prop :=
  ∀ s f, FrameInv s → frameHeader s = .ok f →
    exec .getfieldInvalid s = .next { s with fnResult := .fieldError .fieldType } ∧
    exec .getfieldHeader s = .next { s with fnResult := .field 2 (.header f) } ∧
    exec .getfieldDestAddress s = .next { s with fnResult := Reference.numberField s 3 f.dab.toNat } ∧
    exec .getfieldSourceAddress s = .next
      { s with fnResult := Reference.numberField s (3 + f.dab.toNat) f.sab.toNat } ∧
    exec .getfieldProtocolFlags s = .next
      { s with fnResult := Reference.numberField s (3 + f.dab.toNat + f.sab.toNat) f.pfb.toNat } ∧
    exec .getfieldData s = .next
      { s with
        fnResult := Reference.dataField s (3 + f.dab.toNat + f.sab.toNat + f.pfb.toNat) (toSize f.ndb) } ∧
    exec .getfieldHash s = .next
      { s with
        fnResult := Reference.numberField s (3 + f.dab.toNat + f.sab.toNat + f.pfb.toNat + toSize f.ndb)
          (hashSize s.config f.edm) }

/-- R219: REMOVEPADDING's length, and the bytes it leaves. -/
def Obligations.RemovepaddingDropsTheZeroEdge : Prop :=
  ∀ s placement p, ∃ r bs, exec (.removepadding placement p) s = .next { s with fnResult := .trimmed r bs } ∧
    (p.length ≤ 8 → r = p.length ∧ bs = p.map some) ∧
    (8 < p.length → placement = .after →
      bs = p.map some ∧ r ≤ p.length ∧ (∀ i, r ≤ i → i < p.length → p[i]? = some 0) ∧
        (r ≠ 0 → p[r - 1]? ≠ some 0)) ∧
    (8 < p.length → placement = .before →
      ∃ j, j ≤ p.length ∧ r = p.length - j ∧ (∀ i, i < j → p[i]? = some 0) ∧
        (j = p.length → bs = p.map some) ∧
        (j < p.length → p[j]? ≠ some 0 ∧ bs = (p.drop j).map some ++ List.replicate j none))

/-- R221: REMOVEPADDING leaves the length of an already trimmed sequence. -/
def Obligations.RemovepaddingKeepsATrimmedLength : Prop :=
  ∀ s placement (p : List Byte),
    (p.length ≤ 8 ∨ (placement = .after ∧ p.getLast? ≠ some 0) ∨ (placement = .before ∧ p.head? ≠ some 0)) →
    ∃ bs, exec (.removepadding placement p) s = .next { s with fnResult := .trimmed p.length bs }

/-! ## Outputs -/

/-- R24, R117: the read port gives the stored byte below `length` and faults above; the header view gives the header
and its layout once it is stored and faults before (the fault is the model's, log 15). -/
def Obligations.PortsReadStoredBytesOnly : Prop :=
  ∀ s, FrameInv s →
    (∀ i : BitVec 10, i.toNat < s.length → ∃ b, s.frameBytes[i.toNat]? = some b ∧ readPort s i = .ok b) ∧
    (∀ i : BitVec 10, s.length ≤ i.toNat → readPort s i = .error (.noValue i.toNat)) ∧
    (s.length < 3 → ∃ e, headerView s = .error e) ∧
    (3 ≤ s.length → ∃ hdb2 hdb1, s.frameBytes[1]? = some hdb2 ∧ s.frameBytes[2]? = some hdb1 ∧
      headerView s = .ok
        { fields := unpackHeader hdb2 hdb1
          widths := widthsOf s.config (unpackHeader hdb2 hdb1)
          offsets := offsetsOf (unpackHeader hdb2 hdb1)
          total := totalSize s.config (unpackHeader hdb2 hdb1) })

/-- R21, R99, R243: the numbers at the outputs. -/
def Obligations.OutputCodesFollowTheTables : Prop :=
  statusCode .idle = 0 ∧ statusCode .incomplete = 1 ∧ statusCode .valid = 2 ∧ statusCode .errorHash = 3 ∧
    statusCode .errorOverflow = 4 ∧ (∀ s, (statusPort s).toNat ≤ 4) ∧
    errorCode .unknownFormat = 1 ∧ errorCode .fieldType = 2 ∧ errorCode .frameFormat = 3 ∧
    errorCode .shortFrame = 4 ∧ errorCode .nullStorage = 5 ∧ errorCode .bufferTooSmall = 6 ∧
    (∀ s, resErrPort s ≠ some 7) ∧
    (∀ s c, c.toNat < 3 → ∃ t, exec (.init c) s = .next t ∧ resErrPort t = some 6) ∧
    ∀ s c, 3 ≤ c.toNat → ∃ t, exec (.init c) s = .next t ∧ resErrPort t = some 0
end

