-- ==== Sys2Proof/Laws/State.lean ====
section
/-! SUPPORT. One lemma per field of State per named update, true by rfl, so that no proof unfolds an update. -/

namespace Sys2Proof.Machine

variable (s : State)

@[simp] theorem State.enterStatus_config (v : Status) : (s.enterStatus v).config = s.config := rfl
@[simp] theorem State.enterStatus_status (v : Status) : (s.enterStatus v).status = v := rfl
@[simp] theorem State.enterStatus_length (v : Status) : (s.enterStatus v).length = s.length := rfl
@[simp] theorem State.enterStatus_capacity (v : Status) : (s.enterStatus v).capacity = s.capacity := rfl
@[simp] theorem State.enterStatus_buf (v : Status) : (s.enterStatus v).buf = s.buf := rfl
@[simp] theorem State.enterStatus_cmdResult (v : Status) : (s.enterStatus v).cmdResult = s.cmdResult := rfl
@[simp] theorem State.enterStatus_fnResult (v : Status) : (s.enterStatus v).fnResult = s.fnResult := rfl
@[simp] theorem State.enterStatus_soft (v : Status) : (s.enterStatus v).soft = s.soft := rfl
@[simp] theorem State.enterStatus_inputs (v : Status) : (s.enterStatus v).inputs = s.inputs := rfl
@[simp] theorem State.enterStatus_freeCount (v : Status) : (s.enterStatus v).freeCount = s.freeCount := rfl

@[simp] theorem State.setCmd_config (r : CmdResult) : (s.setCmd r).config = s.config := rfl
@[simp] theorem State.setCmd_status (r : CmdResult) : (s.setCmd r).status = s.status := rfl
@[simp] theorem State.setCmd_length (r : CmdResult) : (s.setCmd r).length = s.length := rfl
@[simp] theorem State.setCmd_capacity (r : CmdResult) : (s.setCmd r).capacity = s.capacity := rfl
@[simp] theorem State.setCmd_buf (r : CmdResult) : (s.setCmd r).buf = s.buf := rfl
@[simp] theorem State.setCmd_cmdResult (r : CmdResult) : (s.setCmd r).cmdResult = r := rfl
@[simp] theorem State.setCmd_fnResult (r : CmdResult) : (s.setCmd r).fnResult = s.fnResult := rfl
@[simp] theorem State.setCmd_soft (r : CmdResult) : (s.setCmd r).soft = s.soft := rfl
@[simp] theorem State.setCmd_inputs (r : CmdResult) : (s.setCmd r).inputs = s.inputs := rfl
@[simp] theorem State.setCmd_freeCount (r : CmdResult) : (s.setCmd r).freeCount = s.freeCount := rfl

@[simp] theorem State.setFn_config (r : FnResult) : (s.setFn r).config = s.config := rfl
@[simp] theorem State.setFn_status (r : FnResult) : (s.setFn r).status = s.status := rfl
@[simp] theorem State.setFn_length (r : FnResult) : (s.setFn r).length = s.length := rfl
@[simp] theorem State.setFn_capacity (r : FnResult) : (s.setFn r).capacity = s.capacity := rfl
@[simp] theorem State.setFn_buf (r : FnResult) : (s.setFn r).buf = s.buf := rfl
@[simp] theorem State.setFn_cmdResult (r : FnResult) : (s.setFn r).cmdResult = s.cmdResult := rfl
@[simp] theorem State.setFn_fnResult (r : FnResult) : (s.setFn r).fnResult = r := rfl
@[simp] theorem State.setFn_soft (r : FnResult) : (s.setFn r).soft = s.soft := rfl
@[simp] theorem State.setFn_inputs (r : FnResult) : (s.setFn r).inputs = s.inputs := rfl
@[simp] theorem State.setFn_freeCount (r : FnResult) : (s.setFn r).freeCount = s.freeCount := rfl

@[simp] theorem State.setCapacity_config (c : Nat) : (s.setCapacity c).config = s.config := rfl
@[simp] theorem State.setCapacity_status (c : Nat) : (s.setCapacity c).status = s.status := rfl
@[simp] theorem State.setCapacity_length (c : Nat) : (s.setCapacity c).length = s.length := rfl
@[simp] theorem State.setCapacity_capacity (c : Nat) : (s.setCapacity c).capacity = some c := rfl
@[simp] theorem State.setCapacity_buf (c : Nat) : (s.setCapacity c).buf = s.buf := rfl
@[simp] theorem State.setCapacity_cmdResult (c : Nat) : (s.setCapacity c).cmdResult = s.cmdResult := rfl
@[simp] theorem State.setCapacity_fnResult (c : Nat) : (s.setCapacity c).fnResult = s.fnResult := rfl
@[simp] theorem State.setCapacity_soft (c : Nat) : (s.setCapacity c).soft = s.soft := rfl
@[simp] theorem State.setCapacity_inputs (c : Nat) : (s.setCapacity c).inputs = s.inputs := rfl
@[simp] theorem State.setCapacity_freeCount (c : Nat) : (s.setCapacity c).freeCount = s.freeCount := rfl

@[simp] theorem State.setSoft_config (f : SoftFrame) : (s.setSoft f).config = s.config := rfl
@[simp] theorem State.setSoft_status (f : SoftFrame) : (s.setSoft f).status = s.status := rfl
@[simp] theorem State.setSoft_length (f : SoftFrame) : (s.setSoft f).length = s.length := rfl
@[simp] theorem State.setSoft_capacity (f : SoftFrame) : (s.setSoft f).capacity = s.capacity := rfl
@[simp] theorem State.setSoft_buf (f : SoftFrame) : (s.setSoft f).buf = s.buf := rfl
@[simp] theorem State.setSoft_cmdResult (f : SoftFrame) : (s.setSoft f).cmdResult = s.cmdResult := rfl
@[simp] theorem State.setSoft_fnResult (f : SoftFrame) : (s.setSoft f).fnResult = s.fnResult := rfl
@[simp] theorem State.setSoft_soft (f : SoftFrame) : (s.setSoft f).soft = f := rfl
@[simp] theorem State.setSoft_inputs (f : SoftFrame) : (s.setSoft f).inputs = s.inputs := rfl
@[simp] theorem State.setSoft_freeCount (f : SoftFrame) : (s.setSoft f).freeCount = s.freeCount := rfl

@[simp] theorem State.setInputs_config (q : List Input) : (s.setInputs q).config = s.config := rfl
@[simp] theorem State.setInputs_status (q : List Input) : (s.setInputs q).status = s.status := rfl
@[simp] theorem State.setInputs_length (q : List Input) : (s.setInputs q).length = s.length := rfl
@[simp] theorem State.setInputs_capacity (q : List Input) : (s.setInputs q).capacity = s.capacity := rfl
@[simp] theorem State.setInputs_buf (q : List Input) : (s.setInputs q).buf = s.buf := rfl
@[simp] theorem State.setInputs_cmdResult (q : List Input) : (s.setInputs q).cmdResult = s.cmdResult := rfl
@[simp] theorem State.setInputs_fnResult (q : List Input) : (s.setInputs q).fnResult = s.fnResult := rfl
@[simp] theorem State.setInputs_soft (q : List Input) : (s.setInputs q).soft = s.soft := rfl
@[simp] theorem State.setInputs_inputs (q : List Input) : (s.setInputs q).inputs = q := rfl
@[simp] theorem State.setInputs_freeCount (q : List Input) : (s.setInputs q).freeCount = s.freeCount := rfl

@[simp] theorem State.countFree_config : (s.countFree).config = s.config := rfl
@[simp] theorem State.countFree_status : (s.countFree).status = s.status := rfl
@[simp] theorem State.countFree_length : (s.countFree).length = s.length := rfl
@[simp] theorem State.countFree_capacity : (s.countFree).capacity = s.capacity := rfl
@[simp] theorem State.countFree_buf : (s.countFree).buf = s.buf := rfl
@[simp] theorem State.countFree_cmdResult : (s.countFree).cmdResult = s.cmdResult := rfl
@[simp] theorem State.countFree_fnResult : (s.countFree).fnResult = s.fnResult := rfl
@[simp] theorem State.countFree_soft : (s.countFree).soft = s.soft := rfl
@[simp] theorem State.countFree_inputs : (s.countFree).inputs = s.inputs := rfl
@[simp] theorem State.countFree_freeCount : (s.countFree).freeCount = s.freeCount + 1 := rfl

@[simp] theorem State.store_config (i : Nat) (b : Byte) : (s.store i b).config = s.config := rfl
@[simp] theorem State.store_status (i : Nat) (b : Byte) : (s.store i b).status = s.status := rfl
@[simp] theorem State.store_length (i : Nat) (b : Byte) : (s.store i b).length = i + 1 := rfl
@[simp] theorem State.store_capacity (i : Nat) (b : Byte) : (s.store i b).capacity = s.capacity := rfl
@[simp] theorem State.store_buf (i : Nat) (b : Byte) : (s.store i b).buf = s.buf.write i b := rfl
@[simp] theorem State.store_cmdResult (i : Nat) (b : Byte) : (s.store i b).cmdResult = s.cmdResult := rfl
@[simp] theorem State.store_fnResult (i : Nat) (b : Byte) : (s.store i b).fnResult = s.fnResult := rfl
@[simp] theorem State.store_soft (i : Nat) (b : Byte) : (s.store i b).soft = s.soft := rfl
@[simp] theorem State.store_inputs (i : Nat) (b : Byte) : (s.store i b).inputs = s.inputs := rfl
@[simp] theorem State.store_freeCount (i : Nat) (b : Byte) : (s.store i b).freeCount = s.freeCount := rfl

@[simp] theorem State.abandon_config : (s.abandon).config = s.config := rfl
@[simp] theorem State.abandon_status : (s.abandon).status = .idle := rfl
@[simp] theorem State.abandon_length : (s.abandon).length = 0 := rfl
@[simp] theorem State.abandon_capacity : (s.abandon).capacity = s.capacity := rfl
@[simp] theorem State.abandon_buf : (s.abandon).buf = [] := rfl
@[simp] theorem State.abandon_cmdResult : (s.abandon).cmdResult = s.cmdResult := rfl
@[simp] theorem State.abandon_fnResult : (s.abandon).fnResult = s.fnResult := rfl
@[simp] theorem State.abandon_soft : (s.abandon).soft = s.soft := rfl
@[simp] theorem State.abandon_inputs : (s.abandon).inputs = s.inputs := rfl
@[simp] theorem State.abandon_freeCount : (s.abandon).freeCount = s.freeCount := rfl

@[simp] theorem State.raise_config (e : ErrorCode) : (s.raise e).config = s.config := rfl
@[simp] theorem State.raise_status (e : ErrorCode) : (s.raise e).status = s.status := rfl
@[simp] theorem State.raise_length (e : ErrorCode) : (s.raise e).length = s.length := rfl
@[simp] theorem State.raise_capacity (e : ErrorCode) : (s.raise e).capacity = s.capacity := rfl
@[simp] theorem State.raise_buf (e : ErrorCode) : (s.raise e).buf = s.buf := rfl
@[simp] theorem State.raise_cmdResult (e : ErrorCode) : (s.raise e).cmdResult = .error e := rfl
@[simp] theorem State.raise_fnResult (e : ErrorCode) : (s.raise e).fnResult = s.fnResult := rfl
@[simp] theorem State.raise_soft (e : ErrorCode) : (s.raise e).soft = s.soft := rfl
@[simp] theorem State.raise_inputs (e : ErrorCode) : (s.raise e).inputs = s.inputs := rfl
@[simp] theorem State.raise_freeCount (e : ErrorCode) : (s.raise e).freeCount = s.freeCount := rfl

@[simp] theorem State.hardwareReset_config : (s.hardwareReset).config = s.config := rfl
@[simp] theorem State.hardwareReset_status : (s.hardwareReset).status = .idle := rfl
@[simp] theorem State.hardwareReset_length : (s.hardwareReset).length = 0 := rfl
@[simp] theorem State.hardwareReset_capacity : (s.hardwareReset).capacity = none := rfl
@[simp] theorem State.hardwareReset_buf : (s.hardwareReset).buf = [] := rfl
@[simp] theorem State.hardwareReset_cmdResult : (s.hardwareReset).cmdResult = .empty := rfl
@[simp] theorem State.hardwareReset_fnResult : (s.hardwareReset).fnResult = s.fnResult := rfl
@[simp] theorem State.hardwareReset_soft : (s.hardwareReset).soft = s.soft := rfl
@[simp] theorem State.hardwareReset_inputs : (s.hardwareReset).inputs = s.inputs := rfl
@[simp] theorem State.hardwareReset_freeCount : (s.hardwareReset).freeCount = s.freeCount := rfl

@[simp] theorem State.withImpl_status (impl : HashImpl) : (s.withImpl impl).status = s.status := rfl
@[simp] theorem State.withImpl_length (impl : HashImpl) : (s.withImpl impl).length = s.length := rfl
@[simp] theorem State.withImpl_capacity (impl : HashImpl) : (s.withImpl impl).capacity = s.capacity := rfl
@[simp] theorem State.withImpl_buf (impl : HashImpl) : (s.withImpl impl).buf = s.buf := rfl
@[simp] theorem State.withImpl_cmdResult (impl : HashImpl) : (s.withImpl impl).cmdResult = s.cmdResult := rfl
@[simp] theorem State.withImpl_fnResult (impl : HashImpl) : (s.withImpl impl).fnResult = s.fnResult := rfl
@[simp] theorem State.withImpl_soft (impl : HashImpl) : (s.withImpl impl).soft = s.soft := rfl
@[simp] theorem State.withImpl_inputs (impl : HashImpl) : (s.withImpl impl).inputs = s.inputs := rfl
@[simp] theorem State.withImpl_freeCount (impl : HashImpl) : (s.withImpl impl).freeCount = s.freeCount := rfl

end Sys2Proof.Machine
end

