-- ==== Sys2Proof/Laws/Memory.lean ====
section
/-! SUPPORT. The laws of the buffer's contents: read after write, the canonical form, and the buffer that holds exactly
the indices below a length. -/

namespace Sys2Proof.Machine

@[simp] theorem Memory.read_nil (a : Nat) : Memory.read [] a = none := rfl

/-- A write gives the written byte at its address. -/
@[simp] theorem Memory.read_write_same (m : Memory) (a : Nat) (b : Byte) : (m.write a b).read a = some b := by
  induction m with
  | nil => simp [Memory.write, Memory.read]
  | cons x m ih =>
    obtain ⟨k, v⟩ := x
    by_cases h1 : a < k
    · simp [Memory.write, Memory.read, h1]
    · by_cases h2 : a = k
      · simp [Memory.write, Memory.read, h2]
      · simp [Memory.write, Memory.read, h1, h2, ih]

/-- A write leaves every other address alone. -/
theorem Memory.read_write_other (m : Memory) (a : Nat) (b : Byte) {a' : Nat} (h : a' ≠ a) :
    (m.write a b).read a' = m.read a' := by
  induction m with
  | nil => simp [Memory.write, Memory.read, h]
  | cons x m ih =>
    obtain ⟨k, v⟩ := x
    by_cases h1 : a < k
    · simp [Memory.write, Memory.read, h1, h]
    · by_cases h2 : a = k
      · subst h2
        simp [Memory.write, Memory.read, h]
      · simp [Memory.write, Memory.read, h1, h2, ih]

/-- A read after a write, in one equation. -/
theorem Memory.read_write (m : Memory) (a a' : Nat) (b : Byte) :
    (m.write a b).read a' = if a' = a then some b else m.read a' := by
  by_cases h : a' = a
  · simp [h]
  · simp [h, Memory.read_write_other m a b h]

/-- The addresses a write lists are the old ones and its own. -/
theorem Memory.mem_write (m : Memory) (a : Nat) (b : Byte) {x : Host.Cell} (h : x ∈ m.write a b) :
    x = (a, b) ∨ x ∈ m := by
  induction m with
  | nil => simpa [Memory.write] using h
  | cons y m ih =>
    obtain ⟨k, v⟩ := y
    unfold Memory.write at h
    split at h
    · simpa using h
    · split at h
      · rcases List.mem_cons.mp h with h | h
        · exact Or.inl h
        · exact Or.inr (List.mem_cons_of_mem _ h)
      · rcases List.mem_cons.mp h with h | h
        · exact Or.inr (by simp [h])
        · exact (ih h).imp id (List.mem_cons_of_mem _)

/-- A write keeps the canonical form. -/
theorem Memory.wf_write {m : Memory} (a : Nat) (b : Byte) (h : m.wf) : (m.write a b).wf := by
  induction m with
  | nil => simp [Memory.write, Memory.wf]
  | cons x m ih =>
    obtain ⟨k, v⟩ := x
    have h' := List.pairwise_cons.mp h
    unfold Memory.write
    split
    · rename_i hlt
      refine List.pairwise_cons.mpr ⟨fun y hy => ?_, h⟩
      rcases List.mem_cons.mp hy with hy | hy
      · simpa [hy] using hlt
      · exact Nat.lt_trans hlt (h'.1 y hy)
    · split
      · rename_i heq
        exact List.pairwise_cons.mpr ⟨fun y hy => by simpa [heq] using h'.1 y hy, h'.2⟩
      · rename_i h1 h2
        refine List.pairwise_cons.mpr ⟨fun y hy => ?_, ih h'.2⟩
        rcases Memory.mem_write m a b hy with hy | hy
        · simp only [hy]
          omega
        · exact h'.1 y hy

/-- Above every listed address a write appends. -/
theorem Memory.write_above (m : Memory) (a : Nat) (b : Byte) (h : ∀ x ∈ m, x.1 < a) :
    m.write a b = m ++ [(a, b)] := by
  induction m with
  | nil => rfl
  | cons x m ih =>
    obtain ⟨k, v⟩ := x
    have hk : k < a := h (k, v) (by simp)
    have : ¬ a < k := by omega
    have : ¬ a = k := by omega
    simp [Memory.write, *, ih fun y hy => h y (List.mem_cons_of_mem _ hy)]

/-- An address none of whose entries is listed has no value. -/
theorem Memory.read_eq_none (m : Memory) (a : Nat) (h : ∀ x ∈ m, x.1 ≠ a) : m.read a = none := by
  induction m with
  | nil => rfl
  | cons x m ih =>
    obtain ⟨k, v⟩ := x
    have hk : a ≠ k := fun e => h (k, v) (by simp) e.symm
    simp [Memory.read, hk, ih fun y hy => h y (List.mem_cons_of_mem _ hy)]

/-- The addresses of a buffer that lists `i`, `i + 1`, … : reading is indexing. -/
theorem Memory.read_range' (m : Memory) (i n : Nat) (h : m.map Prod.fst = List.range' i n) (a : Nat) :
    m.read (i + a) = (m.map Prod.snd)[a]? := by
  induction m generalizing i n a with
  | nil => simp
  | cons x m ih =>
    obtain ⟨k, v⟩ := x
    cases n with
    | zero => simp at h
    | succ n =>
      simp only [List.map_cons, List.range'_succ, List.cons.injEq] at h
      obtain ⟨hk, hm⟩ := h
      subst hk
      cases a with
      | zero => simp [Memory.read]
      | succ a =>
        have := ih (k + 1) n hm a
        simp only [Memory.read, List.map_cons, List.getElem?_cons_succ, ← this]
        rw [if_neg (by omega)]
        congr 1
        omega

/-- The addresses are 0 to `n - 1`: reading is indexing the listed bytes. -/
theorem Memory.read_range {m : Memory} {n : Nat} (h : m.map Prod.fst = List.range n) (a : Nat) :
    m.read a = (m.map Prod.snd)[a]? := by
  have := Memory.read_range' m 0 n (by rw [h, List.range_eq_range']) a
  simpa using this

/-- A buffer that lists 0 to `n - 1` is in canonical form. -/
theorem Memory.wf_of_range {m : Memory} {n : Nat} (h : m.map Prod.fst = List.range n) : m.wf := by
  have : (m.map Prod.fst).Pairwise (· < ·) := h ▸ List.pairwise_lt_range
  exact List.pairwise_map.mp this

/-- Writing at `n` a buffer that lists 0 to `n - 1` appends. -/
theorem Memory.write_range {m : Memory} {n : Nat} (h : m.map Prod.fst = List.range n) (b : Byte) :
    m.write n b = m ++ [(n, b)] := by
  refine Memory.write_above m n b fun x hx => ?_
  have : x.1 ∈ m.map Prod.fst := List.mem_map_of_mem hx
  rw [h] at this
  exact List.mem_range.mp this

end Sys2Proof.Machine
end

