-- ==== Sys2Proof/Laws/Ops.lean ====
section
/-! SUPPORT. What the shared operations can do, each said once: reads of the buffer, outcomes, and reads of a buffer
that holds exactly the indices below `length`. -/

namespace Sys2Proof.Machine

/-! ## Outcomes -/

@[simp] theorem withRead_ok {α : Type} (v : α) (k : α → Outcome) : withRead (.ok v) k = k v := rfl

@[simp] theorem withRead_error {α : Type} (e : Fault) (k : α → Outcome) :
    withRead (.error e : Except Fault α) k = .fault e := rfl

/-- A read that leads to a next state gave a value. -/
theorem withRead_eq_next {α : Type} {r : Except Fault α} {k : α → Outcome} {t : State}
    (h : withRead r k = .next t) : ∃ v, r = .ok v ∧ k v = .next t := by
  cases r with
  | ok v => exact ⟨v, rfl, h⟩
  | error e => simp [withRead] at h

/-- A command on an initialised block. -/
theorem withCapacity_some {s : State} {cap : Nat} (h : s.capacity = some cap) (k : Nat → Outcome) :
    withCapacity s k = k cap := by simp [withCapacity, h]

/-- A command before the first successful INIT. -/
theorem withCapacity_none {s : State} (h : s.capacity = none) (k : Nat → Outcome) :
    withCapacity s k = .refused .notInitialised := by simp [withCapacity, h]

/-- A command that leads to a next state had a capacity. -/
theorem withCapacity_eq_next {s : State} {k : Nat → Outcome} {t : State} (h : withCapacity s k = .next t) :
    ∃ cap, s.capacity = some cap ∧ k cap = .next t := by
  cases hc : s.capacity with
  | none => simp [withCapacity, hc] at h
  | some cap => exact ⟨cap, rfl, by simpa [withCapacity, hc] using h⟩

/-- A function operation changes its result and nothing else. -/
theorem answer_eq_next {s t : State} {r : FnResult} (h : answer s r = .next t) : t = s.setFn r := by
  simpa [answer] using h.symm

/-- A command that returns the status it leaves. -/
theorem returnStatus_eq_next {s t : State} (h : returnStatus s = .next t) : t = s.setCmd (.status s.status) := by
  simpa [returnStatus] using h.symm

/-- A store happens below the capacity. -/
theorem storeByte_eq_ok {s t : State} {cap i : Nat} {b : Byte} (h : storeByte s cap i b = .ok t) :
    i < cap ∧ t = s.store i b := by
  unfold storeByte at h
  split at h
  · exact ⟨‹_›, by simpa using h.symm⟩
  · simp at h

theorem storeByte_ok {cap i : Nat} (h : i < cap) (s : State) (b : Byte) : storeByte s cap i b = .ok (s.store i b) := by
  simp [storeByte, h]

/-! ## Reads -/

/-- A byte that was read lies below `length` and is the one listed. -/
theorem readByte_eq_ok {s : State} {i : Nat} {b : Byte} :
    readByte s i = .ok b ↔ i < s.length ∧ s.buf.read i = some b := by
  unfold readByte
  split
  · cases h : s.buf.read i with
    | none => simp
    | some v => simp [*]
  · simp [*]

/-- A read sees `length` and the buffer, nothing else of the state. -/
theorem readByte_congr {s t : State} (hl : t.length = s.length) (hb : t.buf = s.buf) (i : Nat) :
    readByte t i = readByte s i := by simp [readByte, hl, hb]

theorem readBytes_congr {s t : State} (hl : t.length = s.length) (hb : t.buf = s.buf) (i n : Nat) :
    readBytes t i n = readBytes s i n := by
  induction n generalizing i with
  | zero => rfl
  | succ n ih => simp [readBytes, readByte_congr hl hb, ih]

theorem frameHeader_congr {s t : State} (hl : t.length = s.length) (hb : t.buf = s.buf) :
    frameHeader t = frameHeader s := by simp [frameHeader, readByte_congr hl hb]

theorem hashedBytes_congr {s t : State} (hl : t.length = s.length) (hb : t.buf = s.buf)
    (hi : t.config.hashFirstIndex = s.config.hashFirstIndex) (f : HeaderFields) :
    hashedBytes t f = hashedBytes s f := by simp [hashedBytes, readBytes_congr hl hb, hi]

theorem storedHash_congr {s t : State} (hl : t.length = s.length) (hb : t.buf = s.buf)
    (hu : t.config.userHashSize = s.config.userHashSize) (f : HeaderFields) :
    storedHash t f = storedHash s f := by
  have hs : hashSize t.config f.edm = hashSize s.config f.edm := by
    unfold hashSize
    rw [hu]
  rw [storedHash, storedHash, hs, readBytes_congr hl hb]

/-! ## The canonical form -/

/-- The block's one store keeps the canonical form. -/
theorem State.wf_store {s : State} (h : s.buf.wf) (i : Nat) (b : Byte) : (s.store i b).buf.wf := Memory.wf_write i b h

/-- A voided buffer has it. -/
theorem State.wf_abandon (s : State) : s.abandon.buf.wf := List.Pairwise.nil

theorem State.wf_hardwareReset (s : State) : s.hardwareReset.buf.wf := List.Pairwise.nil

/-- So has the buffer at reset. -/
theorem State.wf_reset : State.reset.buf.wf := List.Pairwise.nil

/-! ## A filled buffer -/

/-- The buffer lists exactly the indices below `length` (R24, R31 c). -/
abbrev State.Filled (s : State) : Prop := s.buf.map Prod.fst = List.range s.length

theorem State.Filled.length_bytes {s : State} (h : s.Filled) : s.frameBytes.length = s.length := by
  have := congrArg List.length h
  simpa [State.frameBytes] using this

theorem State.Filled.read {s : State} (h : s.Filled) (i : Nat) : s.buf.read i = s.frameBytes[i]? :=
  Memory.read_range h i

/-- A read below `length` of a filled buffer. -/
theorem State.Filled.readByte {s : State} (h : s.Filled) {i : Nat} (hi : i < s.length) :
    readByte s i = .ok (s.frameBytes[i]'(h.length_bytes.symm ▸ hi)) := by
  rw [readByte_eq_ok, h.read]
  exact ⟨hi, List.getElem?_eq_getElem _⟩

/-- A range of reads below `length` of a filled buffer. -/
theorem State.Filled.readBytes {s : State} (h : s.Filled) {i n : Nat} (hi : i + n ≤ s.length) :
    readBytes s i n = .ok (s.slice i n) := by
  induction n generalizing i with
  | zero => simp [Machine.readBytes, State.slice]
  | succ n ih =>
    have hlt : i < s.length := by omega
    have hb : i < s.frameBytes.length := h.length_bytes.symm ▸ hlt
    have hs : s.slice i (n + 1) = s.frameBytes[i] :: s.slice (i + 1) n := by
      rw [State.slice, List.drop_eq_getElem_cons hb, List.take_succ_cons, State.slice]
    simp [Machine.readBytes, h.readByte hlt, ih (by omega : i + 1 + n ≤ s.length), hs]

/-- A store at `length` of a filled buffer appends the byte. -/
theorem State.Filled.store {s : State} (h : s.Filled) (b : Byte) :
    (s.store s.length b).Filled ∧ (s.store s.length b).frameBytes = s.frameBytes ++ [b] := by
  have hw : (s.store s.length b).buf = s.buf ++ [(s.length, b)] := Memory.write_range h b
  constructor
  · show (s.store s.length b).buf.map Prod.fst = List.range (s.length + 1)
    rw [hw, List.map_append, h, List.range_succ]
    rfl
  · rw [State.frameBytes, hw, List.map_append]
    rfl

/-- The header of a filled buffer. -/
theorem State.Filled.frameHeader {s : State} (h : s.Filled) (h3 : 3 ≤ s.length) :
    Machine.frameHeader s = .ok (unpackHeader (s.frameBytes[1]'(by rw [h.length_bytes]; omega))
      (s.frameBytes[2]'(by rw [h.length_bytes]; omega))) := by
  simp [Machine.frameHeader, h.readByte (show 1 < s.length by omega), h.readByte (show 2 < s.length by omega)]

/-- The header's bytes, read back. -/
theorem frameHeader_eq_ok {s : State} {f : HeaderFields} (h : frameHeader s = .ok f) :
    3 ≤ s.length ∧ ∃ h2 h1, s.buf.read 1 = some h2 ∧ s.buf.read 2 = some h1 ∧ f = unpackHeader h2 h1 := by
  unfold frameHeader at h
  cases e1 : readByte s 1 with
  | error e => simp [e1] at h
  | ok h2 =>
    cases e2 : readByte s 2 with
    | error e => simp [e1, e2] at h
    | ok h1 =>
      simp only [e1, e2, Except.ok.injEq] at h
      obtain ⟨_, r1⟩ := readByte_eq_ok.mp e1
      obtain ⟨l2, r2⟩ := readByte_eq_ok.mp e2
      exact ⟨l2, h2, h1, r1, r2, h.symm⟩

/-! ## Layout -/

/-- `total = hashOffset + HASHSIZE(edm)` (R113, R114). -/
theorem totalSize_eq (c : Config) (f : HeaderFields) :
    totalSize c f = (offsetsOf f).hash + hashSize c f.edm := by
  simp only [totalSize, offsetsOf]

theorem three_le_hashOffset (f : HeaderFields) : 3 ≤ (offsetsOf f).hash := by
  simp only [offsetsOf]
  omega

/-- Methods with a hash width have a value (R140, R147). -/
theorem hashBy_isSome (c : Config) (edm : BitVec 3) (d : List Byte) (h : hashSize c edm ≠ 0) :
    ∃ v, hashBy c edm d = some v := by
  revert h
  unfold hashSize hashBy
  split <;> simp_all

/-- A completion decides `Valid` or `ErrorHash` (R186). -/
theorem completion_cases {s : State} {f : HeaderFields} {v : Status} (h : completion s f = .ok v) :
    (v = .valid ∧ hashSize s.config f.edm = 0) ∨
      (hashSize s.config f.edm ≠ 0 ∧ ∃ d st, hashedBytes s f = .ok d ∧ storedHash s f = .ok st ∧
        ((v = .valid ∧ hashBy s.config f.edm d = some (be st)) ∨
          (v = .errorHash ∧ hashBy s.config f.edm d ≠ some (be st)))) := by
  unfold completion at h
  split at h
  · exact Or.inl ⟨by simpa using h.symm, ‹_›⟩
  · refine Or.inr ⟨‹_›, ?_⟩
    cases e1 : hashedBytes s f with
    | error e => simp [e1] at h
    | ok d =>
      cases e2 : storedHash s f with
      | error e => simp [e1, e2] at h
      | ok st =>
        refine ⟨d, st, rfl, rfl, ?_⟩
        simp only [e1, e2, Except.ok.injEq] at h
        split at h
        · exact Or.inl ⟨h.symm, ‹_›⟩
        · exact Or.inr ⟨h.symm, ‹_›⟩

/-- A complete frame in a filled buffer is judged (no fault). -/
theorem completion_ok {s : State} (h : s.Filled) {f : HeaderFields} (ht : s.length = totalSize s.config f) :
    ∃ v, completion s f = .ok v := by
  have h3 := three_le_hashOffset f
  have hi : s.config.hashFirstIndex.val < 2 := s.config.hashFirstIndex.isLt
  rw [totalSize_eq] at ht
  unfold completion
  split
  · exact ⟨_, rfl⟩
  · rw [hashedBytes, h.readBytes (by omega), storedHash, h.readBytes (by omega)]
    exact ⟨_, rfl⟩

/-- What the tests after a store decide (R182): nothing before the header is known, then overflow, then completion. -/
theorem judge_cases {s : State} {cap : Nat} {v : Status} (h : judge s cap = .ok v) :
    (s.length < 3 ∧ v = .incomplete) ∨
      (3 ≤ s.length ∧ ∃ f, frameHeader s = .ok f ∧
        ((cap < totalSize s.config f ∧ v = .errorOverflow) ∨
          (totalSize s.config f ≤ cap ∧ s.length = totalSize s.config f ∧ completion s f = .ok v) ∨
          (totalSize s.config f ≤ cap ∧ s.length ≠ totalSize s.config f ∧ v = .incomplete))) := by
  unfold judge at h
  split at h
  · exact Or.inl ⟨‹_›, by simpa using h.symm⟩
  · refine Or.inr ⟨by omega, ?_⟩
    cases e : frameHeader s with
    | error e' => simp [e] at h
    | ok f =>
      refine ⟨f, rfl, ?_⟩
      simp only [e] at h
      split at h
      · exact Or.inl ⟨‹_›, by simpa using h.symm⟩
      · split at h
        · exact Or.inr (Or.inl ⟨by omega, ‹_›, h⟩)
        · exact Or.inr (Or.inr ⟨by omega, ‹_›, by simpa using h.symm⟩)

/-- The tests after a store never fault on a filled buffer. -/
theorem judge_ok {s : State} (h : s.Filled) (cap : Nat) : ∃ v, judge s cap = .ok v := by
  unfold judge
  split
  · exact ⟨_, rfl⟩
  · rw [h.frameHeader (by omega)]
    simp only
    split
    · exact ⟨_, rfl⟩
    · split
      · exact completion_ok h ‹_›
      · exact ⟨_, rfl⟩

end Sys2Proof.Machine
end

