-- ==== Sys2Proof/Laws/Commands.lean ====
section
/-! SUPPORT. What each command can do, said once: equations for where it goes on, and one inversion lemma each. -/

namespace Sys2Proof.Machine

/-! ## DECODE -/

theorem execDecode_idle_sync {s : State} {cap : Nat} (hc : s.capacity = some cap) (hs : s.status = .idle) :
    execDecode s.config.sync s
      = .next (((s.store 0 s.config.sync).enterStatus .incomplete).setCmd (.status .incomplete)) := by
  rw [execDecode, withCapacity_some hc, hs]
  simp [returnStatus]

theorem execDecode_idle_other {s : State} {cap : Nat} {b : Byte} (hc : s.capacity = some cap) (hs : s.status = .idle)
    (hb : b ≠ s.config.sync) : execDecode b s = .next (s.setCmd (.status .idle)) := by
  rw [execDecode, withCapacity_some hc, hs]
  simp [returnStatus, hb, hs]

theorem execDecode_terminal {s : State} {cap : Nat} (b : Byte) (hc : s.capacity = some cap)
    (ht : s.terminal = true) : execDecode b s = .next (s.setCmd (.status s.status)) := by
  rw [execDecode, withCapacity_some hc]
  cases hs : s.status <;> simp_all [State.terminal, terminalStatus, returnStatus]

theorem execDecode_incomplete {s : State} {cap : Nat} {v : Status} (b : Byte) (hc : s.capacity = some cap)
    (hs : s.status = .incomplete) (hl : s.length < cap) (hj : judge (s.store s.length b) cap = .ok v) :
    execDecode b s = .next (((s.store s.length b).enterStatus v).setCmd (.status v)) := by
  rw [execDecode, withCapacity_some hc, hs]
  simp [storeByte_ok hl, hj, returnStatus]

/-- Everything a DECODE that goes on can have done (R182). -/
theorem execDecode_cases {s t : State} {b : Byte} (h : execDecode b s = .next t) :
    ∃ cap, s.capacity = some cap ∧
      ((s.status = .idle ∧ b = s.config.sync ∧
          t = ((s.store 0 b).enterStatus .incomplete).setCmd (.status .incomplete)) ∨
        (s.status = .idle ∧ b ≠ s.config.sync ∧ t = s.setCmd (.status s.status)) ∨
        (s.status = .incomplete ∧ s.length < cap ∧ ∃ v, judge (s.store s.length b) cap = .ok v ∧
          t = ((s.store s.length b).enterStatus v).setCmd (.status v)) ∨
        (s.terminal = true ∧ t = s.setCmd (.status s.status))) := by
  obtain ⟨cap, hc, h⟩ := withCapacity_eq_next h
  refine ⟨cap, hc, ?_⟩
  cases hs : s.status with
  | idle =>
    simp only [hs] at h
    split at h
    · exact Or.inl ⟨rfl, ‹_›, returnStatus_eq_next h⟩
    · exact Or.inr (Or.inl ⟨rfl, ‹_›, by simpa [hs] using returnStatus_eq_next h⟩)
  | incomplete =>
    simp only [hs] at h
    obtain ⟨u, hu, h⟩ := withRead_eq_next h
    obtain ⟨hl, rfl⟩ := storeByte_eq_ok hu
    obtain ⟨v, hv, h⟩ := withRead_eq_next h
    exact Or.inr (Or.inr (Or.inl ⟨rfl, hl, v, hv, returnStatus_eq_next h⟩))
  | valid | errorHash | errorOverflow =>
    simp only [hs] at h
    exact Or.inr (Or.inr (Or.inr ⟨by simp [State.terminal, terminalStatus, hs], by
      simpa [hs] using returnStatus_eq_next h⟩))

/-! ## RESET, INIT, CALCHASH -/

theorem execReset_eq_next {s t : State} (h : execReset s = .next t) :
    (∃ cap, s.capacity = some cap) ∧ t = s.abandon.setCmd (.status .idle) := by
  obtain ⟨cap, hc, h⟩ := withCapacity_eq_next h
  exact ⟨⟨cap, hc⟩, returnStatus_eq_next h⟩

/-- INIT either rejects, or loads the clamped capacity (R180). -/
theorem execInit_cases {s t : State} {c : BitVec 16} (h : execInit c s = .next t) :
    (c.toNat < 3 ∧ t = s.raise .bufferTooSmall) ∨
      (3 ≤ c.toNat ∧ t = (s.abandon.setCapacity (min c.toNat s.config.maxFrameSize)).setCmd .ok) := by
  unfold execInit minFrameSize at h
  split at h
  · exact Or.inl ⟨‹_›, by simpa using h.symm⟩
  · exact Or.inr ⟨by omega, by simpa using h.symm⟩

/-- CALCHASH writes its result and nothing else (R149). -/
theorem execCalchash_eq_next {s t : State} (h : execCalchash s = .next t) :
    (∃ cap, s.capacity = some cap) ∧ ∃ r, t = s.setCmd r := by
  obtain ⟨cap, hc, h⟩ := withCapacity_eq_next h
  refine ⟨⟨cap, hc⟩, ?_⟩
  split at h
  · exact ⟨.error .unknownFormat, (Host.Outcome.next.inj h).symm⟩
  · obtain ⟨f, _, h⟩ := withRead_eq_next h
    split at h
    · exact ⟨.error .frameFormat, (Host.Outcome.next.inj h).symm⟩
    · split at h
      · exact ⟨.error .shortFrame, (Host.Outcome.next.inj h).symm⟩
      · obtain ⟨d, _, h⟩ := withRead_eq_next h
        exact ⟨_, by simpa using h.symm⟩

/-! ## Operations that are no commands -/

/-- GETFIELD answers and changes nothing else (R214). -/
theorem getField_eq_next {s t : State} {sel : Option Field} (h : getField sel s = .next t) : ∃ r, t = s.setFn r := by
  unfold getField at h
  split at h
  · exact ⟨_, answer_eq_next h⟩
  · cases sel with
    | none => exact ⟨_, answer_eq_next h⟩
    | some fd =>
      simp only at h
      obtain ⟨f, _, h⟩ := withRead_eq_next h
      split at h
      · exact ⟨_, answer_eq_next h⟩
      · split at h
        · exact ⟨_, answer_eq_next h⟩
        · obtain ⟨d, _, h⟩ := withRead_eq_next h
          exact ⟨_, answer_eq_next h⟩

theorem execEncapsulate_eq_next {s t : State} {c : BitVec 16} {q : Request} (h : execEncapsulate c q s = .next t) :
    ∃ r f n, t = { s with fnResult := r, soft := f, freeCount := n } := by
  unfold execEncapsulate at h
  split at h
  · exact ⟨_, _, _, (Host.Outcome.next.inj h).symm⟩
  · exact ⟨_, _, _, (Host.Outcome.next.inj h).symm⟩

/-- An operation that is no command leaves the block's registers, buffer and result outputs, the build and the
driver's queue (R90). -/
theorem exec_function {i : Instr} {s t : State} (hi : commandInstr i = false) (h : exec i s = .next t) :
    ∃ r f n, t = { s with fnResult := r, soft := f, freeCount := n } := by
  have fn : ∀ {r : FnResult}, t = s.setFn r → ∃ r f n, t = { s with fnResult := r, soft := f, freeCount := n } :=
    fun {r} e => ⟨r, s.soft, s.freeCount, e⟩
  cases i with
  | decode | reset | init | calchash => simp [commandInstr] at hi
  | encapsulate c q => exact execEncapsulate_eq_next h
  | getfieldHeader => exact (getField_eq_next (sel := some .header) h).elim fun _ => fn
  | getfieldDestAddress => exact (getField_eq_next (sel := some .destAddress) h).elim fun _ => fn
  | getfieldSourceAddress => exact (getField_eq_next (sel := some .sourceAddress) h).elim fun _ => fn
  | getfieldProtocolFlags => exact (getField_eq_next (sel := some .protocolFlags) h).elim fun _ => fn
  | getfieldData => exact (getField_eq_next (sel := some .data) h).elim fun _ => fn
  | getfieldHash => exact (getField_eq_next (sel := some .hash) h).elim fun _ => fn
  | getfieldInvalid => exact (getField_eq_next (sel := none) h).elim fun _ => fn
  | _ => exact fn (answer_eq_next h)

/-- A step that goes on ran the reset input or a decoded operation on the state without its entry. -/
theorem step_cases {s t : State} (h : step s = .next t) :
    (∃ q, s.inputs = .rst :: q ∧ t = (s.setInputs q).hardwareReset) ∨
      (∃ p q i, s.inputs = .op p :: q ∧ decode p = .ok i ∧ exec i (s.setInputs q) = .next t) := by
  unfold step at h
  split at h
  · simp at h
  · rename_i q e
    exact Or.inl ⟨q, e, by simpa using h.symm⟩
  · rename_i p q e
    cases hd : decode p with
    | ok i => exact Or.inr ⟨p, q, i, e, hd, by simpa [hd] using h⟩
    | error e' => simp [hd] at h

end Sys2Proof.Machine
end

