-- ==== Sys2Proof/Laws/Encoding.lean ====
section
/-! SUPPORT. What decoding a packet does, said once: the word comes back whole, the selector picks the reading, and a
length-prefixed byte sequence comes back. -/

namespace Sys2Proof

/-- Two bytes and their number. -/
theorem bytes16_join (v : BitVec 16) : v.extractLsb' 8 8 ++ v.extractLsb' 0 8 = v := by
  rw [BitVec.extractLsb'_append_extractLsb'_eq_extractLsb' (by omega)]
  simp

/-- Three bytes and their word. -/
theorem word_join (w : BitVec 24) : w.extractLsb' 16 8 ++ w.extractLsb' 8 8 ++ w.extractLsb' 0 8 = w := by
  rw [BitVec.extractLsb'_append_extractLsb'_eq_extractLsb' (by omega),
    BitVec.extractLsb'_append_extractLsb'_eq_extractLsb' (by omega)]
  simp

/-- Four bytes and their number. -/
theorem bytes32_join (v : BitVec 32) :
    v.extractLsb' 24 8 ++ v.extractLsb' 16 8 ++ v.extractLsb' 8 8 ++ v.extractLsb' 0 8 = v := by
  rw [BitVec.extractLsb'_append_extractLsb'_eq_extractLsb' (by omega),
    BitVec.extractLsb'_append_extractLsb'_eq_extractLsb' (by omega),
    BitVec.extractLsb'_append_extractLsb'_eq_extractLsb' (by omega)]
  simp

@[simp] theorem Selector.ofByte_code (sel : Selector) : Selector.ofByte sel.code = some sel := by cases sel <;> rfl

/-- Decoding a packet is reading its word as its selector says. -/
theorem decode_packet (w : BitVec 24) (sel : Selector) (operands : List Byte) :
    decode (packet w sel.code operands) = decodeWord sel w operands := by
  simp only [decode, packet, Selector.ofByte_code, word_join]

theorem inWidth_of_lt {width : Nat} {w : BitVec 24} (r : Except DecodeError Instr) (h : w.toNat < 2 ^ width) :
    inWidth width w r = r := by simp only [inWidth, if_pos h]

/-- A byte sequence that fits comes back. -/
theorem bytesOperand_withLength {d : List Byte} (k : List Byte → Instr) (h : bytesFit d = true) :
    bytesOperand (withLength d) k = .ok (k d) := by
  have hl : d.length < 65536 := by simpa [bytesFit] using h
  have hn : (BitVec.ofNat 16 d.length).toNat = d.length := by
    rw [BitVec.toNat_ofNat]
    exact Nat.mod_eq_of_lt hl
  simp only [withLength, bytes16, List.cons_append, List.nil_append, bytesOperand, bytes16_join, hn, if_true]

end Sys2Proof
end

