-- ==== Sys2Proof/Laws/Engines.lean ====
section
/-! SUPPORT. The laws of byte order, the bounds of widths and hash values, and the CRC shifts: linear over exclusive or,
and a plain shift while no set bit leaves the register. -/

namespace Sys2Proof.Machine

/-! ## Byte order -/

@[simp] theorem be_nil : be [] = 0 := rfl

theorem be_append_singleton (d : List Byte) (b : Byte) : be (d ++ [b]) = be d * 256 + b.toNat := by simp [be]

/-- A big-endian value fits its bytes. -/
theorem be_lt (d : List Byte) : be d < 256 ^ d.length := by
  induction d using List.reverseRecOn with
  | nil => simp
  | append_singleton d b ih =>
    have := b.isLt
    rw [be_append_singleton]
    simp only [List.length_append, List.length_singleton, Nat.pow_succ]
    omega

@[simp] theorem length_bytesBE (v n : Nat) : (bytesBE v n).length = n := by
  induction n generalizing v with
  | zero => rfl
  | succ n ih => simp [bytesBE, ih]

/-- Writing `n` bytes and reading them back keeps the low-order bytes (20_memory.md R54). -/
theorem be_bytesBE (v n : Nat) : be (bytesBE v n) = v % 256 ^ n := by
  induction n generalizing v with
  | zero => simp [bytesBE, Nat.mod_one]
  | succ n ih =>
    have h : v % 256 ^ (n + 1) = v % 256 + 256 * (v / 256 % 256 ^ n) := by
      rw [Nat.pow_succ, Nat.mul_comm (256 ^ n) 256, Nat.mod_mul]
    rw [bytesBE, be_append_singleton, ih, h]
    simp only [BitVec.toNat_ofNat]
    omega

/-! ## Bounds -/

/-- The largest tier (41_size_tier.md R130). -/
theorem toSize_le (ndb : BitVec 4) : toSize ndb ≤ 512 := by
  revert ndb
  decide

/-- The widest hash (42_hash_engine.md R140). -/
theorem hashSize_le (c : Config) (edm : BitVec 3) : hashSize c edm ≤ 4 := by
  have := c.userHashSize.isLt
  unfold hashSize
  split <;> omega

/-- A size that fits a tier fits the one FROMSIZE chooses (R131). -/
theorem le_toSize_fromSize {n : Nat} (h : n ≤ 512) : n ≤ toSize (fromSize n) := by
  have all : ∀ m, m < 513 → m ≤ toSize (fromSize m) := by decide +kernel
  exact all n (by omega)

/-- A hash value fits its width (R140, R147). -/
theorem hashBy_lt {c : Config} {edm : BitVec 3} {d : List Byte} {v : Nat} (h : hashBy c edm d = some v) :
    v < 256 ^ hashSize c edm := by
  unfold hashBy at h
  split at h
  case h_6 => cases h
  all_goals
    rename_i he
    obtain rfl := Option.some.inj h
    rw [hashSize, he]
  · exact BitVec.isLt (checksum8 c d)
  · exact BitVec.isLt (crcBuilt c.hashImpl c.crc8 d)
  · exact BitVec.isLt (crcBuilt c.hashImpl c.crc16 d)
  · exact BitVec.isLt (crcBuilt c.hashImpl c.crc32 d)
  · exact Nat.mod_lt _ (Nat.pow_pos (by decide))

/-! ## CRC shifts -/

/-- One bit's shift is linear. -/
theorem crcShift_xor {w : Nat} (p : CrcParams w) (a b : BitVec w) :
    crcShift p (a ^^^ b) = crcShift p a ^^^ crcShift p b := by
  unfold crcShift
  split
  · simp only [BitVec.getLsbD_xor]
    cases a.getLsbD 0 <;> cases b.getLsbD 0 <;> simp [BitVec.ushiftRight_xor_distrib] <;>
      (ext i hi; simp <;> grind)
  · simp only [BitVec.msb_xor]
    cases a.msb <;> cases b.msb <;> simp [BitVec.shiftLeft_xor_distrib] <;> (ext i hi; simp <;> grind)

/-- So are `n` of them. -/
theorem crcShifts_xor {w : Nat} (p : CrcParams w) (n : Nat) (a b : BitVec w) :
    crcShifts p n (a ^^^ b) = crcShifts p n a ^^^ crcShifts p n b := by
  induction n generalizing a b with
  | zero => rfl
  | succ n ih => simp [crcShifts, crcShift_xor, ih]

/-- A reflected register whose low `n` bits are clear only shifts. -/
theorem crcShifts_reflected {w : Nat} {p : CrcParams w} (hp : p.reflected = true) (n : Nat) (a : BitVec w)
    (h : ∀ i < n, a.getLsbD i = false) : crcShifts p n a = a >>> n := by
  induction n generalizing a with
  | zero => simp [crcShifts]
  | succ n ih =>
    have h0 : a.getLsbD 0 = false := h 0 (by omega)
    have hs : crcShift p a = a >>> 1 := by simp [crcShift, hp, h0]
    rw [crcShifts, hs, ih, ← BitVec.shiftRight_add]
    · congr 1
      omega
    · intro i hi
      simp only [BitVec.getLsbD_ushiftRight]
      exact h _ (by omega)

/-- A register shifted upwards whose high `n` bits are clear only shifts. -/
theorem crcShifts_forward {w : Nat} {p : CrcParams w} (hp : p.reflected = false) (n : Nat) (hn : n ≤ w) (a : BitVec w)
    (h : ∀ i < n, a.getLsbD (w - 1 - i) = false) : crcShifts p n a = a <<< n := by
  induction n generalizing a with
  | zero => simp [crcShifts]
  | succ n ih =>
    have h0 : a.msb = false := by
      rw [BitVec.msb_eq_getLsbD_last]
      exact h 0 (by omega)
    have hs : crcShift p a = a <<< 1 := by simp [crcShift, hp, h0]
    rw [crcShifts, hs, ih (by omega), ← BitVec.shiftLeft_add]
    · congr 1
      omega
    · intro i hi
      have := h (i + 1) (by omega)
      rw [show w - 1 - (i + 1) = w - 1 - i - 1 by omega] at this
      simp [BitVec.getLsbD_shiftLeft, this]

end Sys2Proof.Machine
end

