-- ==== Sys2Proof/Laws/PerInstr.lean ====
section
/-! SUPPORT. For every instruction: its encoded word has the bits the opcode table fixes for its row, and fits the
width its packet gives the word. -/

namespace Sys2Proof.Laws.TableBits

/-- The row's mask in spec/opcode_table.json (for a row without one, the 0 and 1 of its encoding). -/
def rowMask : Instr → BitVec 24
  | .decode _ | .reset | .init _ | .calchash => 0x030000
  | .unpack _ _ | .pack _ | .widths _ | .totalsize _ | .offsets _ | .tosize _ | .fromsize _ => 0
  | .hashsize _ | .hash _ _ | .encapsulate _ _ | .removepadding _ _ => 0
  | .edmNone | .edmRetx3 | .checksum8 _ | .crc8 _ | .crc16 _ | .crc32 _ | .edmFec | .userhash _ => 0x000070
  | .ndb0 | .ndb1 | .ndb2 | .ndb3 | .ndb4 | .ndb5 | .ndb6 | .ndb7 | .ndb8 | .ndb9 | .ndb10 | .ndb11 => 0x00000F
  | .ndb12 | .ndb13 | .ndb14 | .ndb15 => 0x00000F
  | .crc8Table _ | .crc16Table _ | .crc32Table _ | .getfieldHeader | .getfieldDestAddress => 0x000007
  | .getfieldSourceAddress | .getfieldProtocolFlags | .getfieldData | .getfieldHash => 0x000007
  | .getfieldInvalid => 0x000006

/-- The row's match. -/
def rowMatch : Instr → BitVec 24
  | .decode _ | .unpack _ _ | .pack _ | .widths _ | .totalsize _ | .offsets _ | .edmNone | .ndb0 => 0
  | .tosize _ | .fromsize _ | .hashsize _ | .hash _ _ | .encapsulate _ _ | .getfieldHeader => 0
  | .removepadding _ _ => 0
  | .reset => 0x010000
  | .init _ => 0x020000
  | .calchash => 0x030000
  | .edmRetx3 => 0x000010
  | .checksum8 _ => 0x000020
  | .crc8 _ => 0x000030
  | .crc16 _ => 0x000040
  | .crc32 _ => 0x000050
  | .edmFec => 0x000060
  | .userhash _ => 0x000070
  | .ndb1 | .getfieldDestAddress => 0x000001
  | .ndb2 | .getfieldSourceAddress => 0x000002
  | .ndb3 | .crc8Table _ | .getfieldProtocolFlags => 0x000003
  | .ndb4 | .crc16Table _ | .getfieldData => 0x000004
  | .ndb5 | .crc32Table _ | .getfieldHash => 0x000005
  | .ndb6 | .getfieldInvalid => 0x000006
  | .ndb7 => 0x000007
  | .ndb8 => 0x000008
  | .ndb9 => 0x000009
  | .ndb10 => 0x00000A
  | .ndb11 => 0x00000B
  | .ndb12 => 0x00000C
  | .ndb13 => 0x00000D
  | .ndb14 => 0x00000E
  | .ndb15 => 0x00000F

/-- How many bits the packet gives the word: the row's own count, but 24 for FROMSIZE's natural (log 29). -/
def wordWidth : Instr → Nat
  | .decode _ | .reset | .init _ | .calchash => 18
  | .unpack _ _ | .pack _ | .widths _ | .totalsize _ | .offsets _ | .edmNone | .edmRetx3 => 16
  | .checksum8 _ | .crc8 _ | .crc16 _ | .crc32 _ | .edmFec | .userhash _ | .ndb0 | .ndb1 | .ndb2 => 16
  | .ndb3 | .ndb4 | .ndb5 | .ndb6 | .ndb7 | .ndb8 | .ndb9 | .ndb10 | .ndb11 | .ndb12 | .ndb13 | .ndb14 => 16
  | .ndb15 => 16
  | .tosize _ => 4
  | .fromsize _ => 24
  | .hashsize _ | .hash _ _ | .crc8Table _ | .crc16Table _ | .crc32Table _ | .getfieldHeader => 3
  | .getfieldDestAddress | .getfieldSourceAddress | .getfieldProtocolFlags | .getfieldData => 3
  | .getfieldHash | .getfieldInvalid => 3
  | .encapsulate _ _ => 12
  | .removepadding _ _ => 1

/-- The fixed bits are in place, and no bit is set above the word's width. -/
def Statement (i : Instr) : Prop := i.word &&& rowMask i = rowMatch i ∧ i.word.toNat < 2 ^ wordWidth i

/-- An appended word is as wide as its parts. -/
theorem append_lt {m n : Nat} (k : Nat) {x : BitVec m} (y : BitVec n) (h : x.toNat < 2 ^ k) :
    (x ++ y).toNat < 2 ^ (k + n) := by
  have hy := y.isLt
  rw [BitVec.toNat_append, Nat.shiftLeft_eq]
  refine Nat.or_lt_two_pow ?_ (Nat.lt_of_lt_of_le hy (Nat.pow_le_pow_right (by omega) (by omega)))
  rw [Nat.pow_add]
  exact Nat.mul_lt_mul_of_pos_right h (by positivity)

theorem zero_append_lt {m n : Nat} (x : BitVec n) : ((0 : BitVec m) ++ x).toNat < 2 ^ n := by
  have h : ((0 : BitVec m) ++ x).toNat = x.toNat := by simp
  exact h ▸ x.isLt

theorem decode (b : Byte) : Statement (.decode b) := ⟨by revert b; decide +kernel, by revert b; decide +kernel⟩
theorem reset : Statement .reset := ⟨by decide, by decide⟩
theorem init (c : BitVec 16) : Statement (.init c) := by
  constructor
  · show ((0x02 : BitVec 8) ++ c) &&& 0x030000 = 0x020000
    ext i hi
    simp only [BitVec.getElem_append, BitVec.getElem_and]
    interval_cases i <;> simp
  · exact append_lt 2 c (by decide)
theorem calchash : Statement .calchash := ⟨by decide, by decide⟩
theorem unpack (hdb2 hdb1 : Byte) : Statement (.unpack hdb2 hdb1) := ⟨BitVec.and_zero,
  append_lt 8 hdb1 (zero_append_lt hdb2)⟩
theorem pack (f : HeaderFields) : Statement (.pack f) := ⟨BitVec.and_zero, zero_append_lt (wordOfHeader f)⟩
theorem widths (f : HeaderFields) : Statement (.widths f) := ⟨BitVec.and_zero, zero_append_lt (wordOfHeader f)⟩
theorem totalsize (f : HeaderFields) : Statement (.totalsize f) := ⟨BitVec.and_zero, zero_append_lt (wordOfHeader f)⟩
theorem offsets (f : HeaderFields) : Statement (.offsets f) := ⟨BitVec.and_zero, zero_append_lt (wordOfHeader f)⟩
theorem edmNone : Statement .edmNone := ⟨by decide, by decide⟩
theorem edmRetx3 : Statement .edmRetx3 := ⟨by decide, by decide⟩
theorem checksum8 (d : List Byte) : Statement (.checksum8 d) := by simp [Statement, Instr.word, rowMask, rowMatch, wordWidth]
theorem crc8 (d : List Byte) : Statement (.crc8 d) := by simp [Statement, Instr.word, rowMask, rowMatch, wordWidth]
theorem crc16 (d : List Byte) : Statement (.crc16 d) := by simp [Statement, Instr.word, rowMask, rowMatch, wordWidth]
theorem crc32 (d : List Byte) : Statement (.crc32 d) := by simp [Statement, Instr.word, rowMask, rowMatch, wordWidth]
theorem edmFec : Statement .edmFec := ⟨by decide, by decide⟩
theorem userhash (d : List Byte) : Statement (.userhash d) := by simp [Statement, Instr.word, rowMask, rowMatch, wordWidth]
theorem ndb0 : Statement .ndb0 := ⟨by decide, by decide⟩
theorem ndb1 : Statement .ndb1 := ⟨by decide, by decide⟩
theorem ndb2 : Statement .ndb2 := ⟨by decide, by decide⟩
theorem ndb3 : Statement .ndb3 := ⟨by decide, by decide⟩
theorem ndb4 : Statement .ndb4 := ⟨by decide, by decide⟩
theorem ndb5 : Statement .ndb5 := ⟨by decide, by decide⟩
theorem ndb6 : Statement .ndb6 := ⟨by decide, by decide⟩
theorem ndb7 : Statement .ndb7 := ⟨by decide, by decide⟩
theorem ndb8 : Statement .ndb8 := ⟨by decide, by decide⟩
theorem ndb9 : Statement .ndb9 := ⟨by decide, by decide⟩
theorem ndb10 : Statement .ndb10 := ⟨by decide, by decide⟩
theorem ndb11 : Statement .ndb11 := ⟨by decide, by decide⟩
theorem ndb12 : Statement .ndb12 := ⟨by decide, by decide⟩
theorem ndb13 : Statement .ndb13 := ⟨by decide, by decide⟩
theorem ndb14 : Statement .ndb14 := ⟨by decide, by decide⟩
theorem ndb15 : Statement .ndb15 := ⟨by decide, by decide⟩
theorem tosize (ndb : BitVec 4) : Statement (.tosize ndb) := ⟨BitVec.and_zero, zero_append_lt ndb⟩
theorem fromsize (dataSize : Nat) : Statement (.fromsize dataSize) := ⟨BitVec.and_zero, BitVec.isLt _⟩
theorem hashsize (edm : BitVec 3) : Statement (.hashsize edm) := ⟨BitVec.and_zero, zero_append_lt edm⟩
theorem hash (edm : BitVec 3) (d : List Byte) : Statement (.hash edm d) := ⟨BitVec.and_zero, zero_append_lt edm⟩
theorem crc8Table (d : List Byte) : Statement (.crc8Table d) := by simp [Statement, Instr.word, rowMask, rowMatch, wordWidth]
theorem crc16Table (d : List Byte) : Statement (.crc16Table d) := by simp [Statement, Instr.word, rowMask, rowMatch, wordWidth]
theorem crc32Table (d : List Byte) : Statement (.crc32Table d) := by simp [Statement, Instr.word, rowMask, rowMatch, wordWidth]
theorem encapsulate (capacity : BitVec 16) (q : Request) : Statement (.encapsulate capacity q) := ⟨BitVec.and_zero,
  append_lt 9 q.edm <| append_lt 8 q.cmd <| append_lt 6 q.ack <| append_lt 4 q.pfb <| append_lt 2 q.sab <|
    zero_append_lt q.dab⟩
theorem getfieldHeader : Statement .getfieldHeader := ⟨by decide, by decide⟩
theorem getfieldDestAddress : Statement .getfieldDestAddress := ⟨by decide, by decide⟩
theorem getfieldSourceAddress : Statement .getfieldSourceAddress := ⟨by decide, by decide⟩
theorem getfieldProtocolFlags : Statement .getfieldProtocolFlags := ⟨by decide, by decide⟩
theorem getfieldData : Statement .getfieldData := ⟨by decide, by decide⟩
theorem getfieldHash : Statement .getfieldHash := ⟨by decide, by decide⟩
theorem getfieldInvalid : Statement .getfieldInvalid := ⟨by decide, by decide⟩
theorem removepadding (placement : Placement) (p : List Byte) : Statement (.removepadding placement p) :=
  ⟨BitVec.and_zero, zero_append_lt placement.bit⟩

end Sys2Proof.Laws.TableBits
end

