-- ==== Sys2Proof/Tests/Slice0.lean ====
section
/-! SUPPORT. Tests. Expected values are from spec/95_test_vectors.md (named by the vector), from the encodings of
30_encoding.md, or from the opcode table; the witnesses show states that meet the hypotheses of the obligations. -/

namespace Sys2Proof.Tests

open Sys2Proof Sys2Proof.Machine

/-! ## Small states -/

/-- The cells of a buffer that holds `bytes` from index `i` on. -/
def cells (i : Nat) : List Byte → Memory
  | [] => []
  | b :: bs => (i, b) :: cells (i + 1) bs

/-- An initialised block of capacity `cap` that holds `bytes`. -/
def block (status : Status) (cap : Nat) (bytes : List Byte) : State :=
  { State.reset with status := status, capacity := some cap, length := bytes.length, buf := cells 0 bytes }

/-- The same in a build with a two-byte user hash (D18, D20). -/
def userBlock (status : Status) (unit : UserHashUnit) (bytes : List Byte) : State :=
  { block status 16 bytes with config := { Config.standard with userHashSize := 2, userHash := unit } }

/-- The next state of an outcome, reset where there is none. -/
def after (o : Outcome) : State :=
  match o with
  | .next t => t
  | .fault _ | .refused _ => State.reset

/-- The next state of an outcome, if there is one. -/
def nextOf (o : Outcome) : Option State :=
  match o with
  | .next t => some t
  | .fault _ | .refused _ => none

/-- A request with everything zero and no data. -/
def plainRequest : Request :=
  { dab := 0, sab := 0, pfb := 0, ack := 0, cmd := 0, edm := 0, destAddress := 0, sourceAddress := 0,
    protocolFlags := 0, data := [], placement := .after }

/-- The frame of D17, P4. -/
def d17 : List Byte := [0x54, 0x50, 0x53, 0x0A, 0x0B, 0xDE, 0xAD, 0xBE, 0x19, 0x75, 0x97, 0x25]

/-- A request with one byte in every address, in the flags and in the payload, and a checksum. -/
def smallRequest : Request := { plainRequest with dab := 1, sab := 1, pfb := 1, edm := 2, data := [0xAB] }

/-- Nine bytes, 1 to 9. -/
def oneToNine : List Byte := [1, 2, 3, 4, 5, 6, 7, 8, 9]

/-! ## WellFormed refuses (log 1, log 29, log 30) -/

/-- A byte sequence whose length does not fit two bytes. -/
def tooLong : List Byte := List.replicate 65536 0

theorem tooLong_not_fit : bytesFit tooLong = false := by simp only [bytesFit, tooLong, List.length_replicate, Nat.lt_irrefl,
  decide_false]

theorem test_wf_bytes_too_long : (Instr.crc8 tooLong).wellFormed = false := tooLong_not_fit

theorem test_wf_data_too_long : (Instr.encapsulate 16 { plainRequest with data := tooLong }).wellFormed = false := by
  show (true && true && true && bytesFit tooLong) = false
  rw [tooLong_not_fit]
  rfl

theorem test_wf_dest_too_large :
    (Instr.encapsulate 16 { plainRequest with destAddress := 2 ^ 32 }).wellFormed = false := by decide

theorem test_wf_source_too_large :
    (Instr.encapsulate 16 { plainRequest with sourceAddress := 2 ^ 32 }).wellFormed = false := by decide

theorem test_wf_flags_too_large :
    (Instr.encapsulate 16 { plainRequest with protocolFlags := 2 ^ 32 }).wellFormed = false := by decide

theorem test_wf_size_too_large : (Instr.fromsize (2 ^ 24)).wellFormed = false := by decide

/-! ## Decoding: words written out bit by bit -/

/-- R91: opcode in bits 17:16; DECODE ignores bits 15:8, RESET and CALCHASH bits 15:0. -/
theorem test_decode_commands :
    decode [0b01010100, 0b00000000, 0b00, 0] = .ok (.decode 0x54) ∧
    decode [0b10000001, 0b11111111, 0b00, 0] = .ok (.decode 0x81) ∧
    decode [0b00000000, 0b00000000, 0b01, 0] = .ok .reset ∧
    decode [0b11111111, 0b11111111, 0b01, 0] = .ok .reset ∧
    decode [0b01011000, 0b00000010, 0b10, 0] = .ok (.init 600) ∧
    decode [0b00000000, 0b00000000, 0b11, 0] = .ok .calchash := by decide

/-- R83, R85: `ddssppaa ceeennnn`, HDB2 the high byte. -/
theorem test_decode_header_functions :
    decode [0b10010000, 0b01000000, 0, 1] = .ok (.unpack 0x40 0x90) ∧
    decode [0b01011010, 0b00011011, 0, 2] =
      .ok (.pack { dab := 0, sab := 1, pfb := 2, ack := 3, cmd := 0, edm := 5, ndb := 10 }) ∧
    decode [0b11110101, 0b10101010, 0, 3] =
      .ok (.widths { dab := 2, sab := 2, pfb := 2, ack := 2, cmd := 1, edm := 7, ndb := 5 }) ∧
    decode [0b00101001, 0b11100100, 0, 4] =
      .ok (.totalsize { dab := 3, sab := 2, pfb := 1, ack := 0, cmd := 0, edm := 2, ndb := 9 }) ∧
    decode [0b10000000, 0b10000000, 0, 5] =
      .ok (.offsets { dab := 2, sab := 0, pfb := 0, ack := 0, cmd := 1, edm := 0, ndb := 0 }) := by decide

/-- R92: the edm code in bits 6:4, the other bits ignored. -/
theorem test_decode_edm_codes :
    decode [0b10001111, 0b11111111, 0, 6] = .ok .edmNone ∧
    decode [0b00010000, 0, 0, 6] = .ok .edmRetx3 ∧
    decode [0b00100000, 0, 0, 6, 0, 2, 0xAA, 0xBB] = .ok (.checksum8 [0xAA, 0xBB]) ∧
    decode [0b00110000, 0, 0, 6, 0, 1, 0xAA] = .ok (.crc8 [0xAA]) ∧
    decode [0b01000000, 0, 0, 6, 0, 0] = .ok (.crc16 []) ∧
    decode [0b01010000, 0, 0, 6, 0, 0] = .ok (.crc32 []) ∧
    decode [0b01100000, 0, 0, 6] = .ok .edmFec ∧
    decode [0b01110000, 0, 0, 6, 0, 0] = .ok (.userhash []) := by decide

/-- R93: the ndb code in bits 3:0, the other bits ignored. -/
theorem test_decode_ndb_codes :
    decode [0b11110000, 0b11111111, 0, 7] = .ok .ndb0 ∧ decode [0b0001, 0, 0, 7] = .ok .ndb1 ∧
    decode [0b0010, 0, 0, 7] = .ok .ndb2 ∧ decode [0b0011, 0, 0, 7] = .ok .ndb3 ∧
    decode [0b0100, 0, 0, 7] = .ok .ndb4 ∧ decode [0b0101, 0, 0, 7] = .ok .ndb5 ∧
    decode [0b0110, 0, 0, 7] = .ok .ndb6 ∧ decode [0b0111, 0, 0, 7] = .ok .ndb7 ∧
    decode [0b1000, 0, 0, 7] = .ok .ndb8 ∧ decode [0b1001, 0, 0, 7] = .ok .ndb9 ∧
    decode [0b1010, 0, 0, 7] = .ok .ndb10 ∧ decode [0b1011, 0, 0, 7] = .ok .ndb11 ∧
    decode [0b1100, 0, 0, 7] = .ok .ndb12 ∧ decode [0b1101, 0, 0, 7] = .ok .ndb13 ∧
    decode [0b1110, 0, 0, 7] = .ok .ndb14 ∧ decode [0b1111, 0, 0, 7] = .ok .ndb15 := by decide

/-- The table's FUNC rows: `nnnn`, `ssssssssss`, `eee`, 011, 100, 101. -/
theorem test_decode_functions :
    decode [0b1101, 0, 0, 8] = .ok (.tosize 13) ∧
    decode [0b11001000, 0b00, 0, 9] = .ok (.fromsize 200) ∧
    decode [0b101, 0, 0, 10] = .ok (.hashsize 5) ∧
    decode [0b100, 0, 0, 11, 0, 1, 0x40] = .ok (.hash 4 [0x40]) ∧
    decode [0b011, 0, 0, 12, 0, 0] = .ok (.crc8Table []) ∧
    decode [0b100, 0, 0, 12, 0, 0] = .ok (.crc16Table []) ∧
    decode [0b101, 0, 0, 12, 0, 0] = .ok (.crc32Table []) := by decide

/-- R213: selectors 0 to 5, and 6 and 7 outside; REMOVEPADDING's bit, After 1, Before 0 (table note). -/
theorem test_decode_software :
    decode [0b000, 0, 0, 14] = .ok .getfieldHeader ∧ decode [0b001, 0, 0, 14] = .ok .getfieldDestAddress ∧
    decode [0b010, 0, 0, 14] = .ok .getfieldSourceAddress ∧
    decode [0b011, 0, 0, 14] = .ok .getfieldProtocolFlags ∧ decode [0b100, 0, 0, 14] = .ok .getfieldData ∧
    decode [0b101, 0, 0, 14] = .ok .getfieldHash ∧ decode [0b110, 0, 0, 14] = .ok .getfieldInvalid ∧
    decode [0b111, 0, 0, 14] = .ok .getfieldInvalid ∧
    decode [0b1, 0, 0, 15, 0, 1, 7] = .ok (.removepadding .after [7]) ∧
    decode [0b0, 0, 0, 15, 0, 1, 7] = .ok (.removepadding .before [7]) := by decide

/-- The table's ENCAPSULATE row: `ddssppaa ceee` in 12 bits. -/
theorem test_decode_encapsulate :
    decode ([0b00011101, 0b1110, 0, 13] ++ [0, 0, 0xBE, 0xEF] ++ [0, 0, 0, 7] ++ [0, 0, 1, 0xFF] ++ [0] ++ [0x02, 0x10] ++
      [0, 1, 0xAB]) =
    .ok (.encapsulate 528
      { dab := 3, sab := 2, pfb := 0, ack := 1, cmd := 1, edm := 5, destAddress := 0xBEEF, sourceAddress := 7,
        protocolFlags := 0x1FF, data := [0xAB], placement := .before }) := by decide

/-- Bytes that are no packet are refused by name (log 1). -/
theorem test_decode_rejects :
    decode [0, 0, 0] = .error .truncated ∧ decode [0, 0, 0, 16] = .error (.unknownSelector 16) ∧
    decode [0, 0, 0b100, 0] = .error .strayBits ∧ decode [0, 0, 0, 0, 0] = .error .trailingBytes ∧
    decode [2, 0, 0, 12, 0, 0] = .error .noTableForm ∧ decode [0x30, 0, 0, 6, 0, 2, 1] = .error .badLength ∧
    decode ([0, 0, 0, 13] ++ List.replicate 12 0 ++ [2, 0, 16, 0, 0]) = .error .badPlacement := by decide

/-- Encoding gives those packets back. -/
theorem test_encode :
    encode (.init 600) = [0x58, 0x02, 0x02, 0] ∧ encode (.unpack 0x40 0x90) = [0x90, 0x40, 0, 1] ∧
    encode (.crc8 [0xAA]) = [0x30, 0, 0, 6, 0, 1, 0xAA] ∧ encode (.removepadding .after [7]) = [1, 0, 0, 15, 0, 1, 7] := by
  decide

/-! ## Commands -/

/-- D1, P1: a byte other than the sync value is discarded. -/
theorem test_decode_noise : nextOf (exec (.decode 0x53) (block .idle 16 [])) =
    some { block .idle 16 [] with cmdResult := .status .idle } := by decide

/-- D4: the last byte of a frame with a good CRC-16. -/
theorem test_decode_valid : nextOf (exec (.decode 0xC4) (block .incomplete 16 [0x54, 0x00, 0x40, 0x48])) =
    some { block .valid 16 [0x54, 0x00, 0x40, 0x48, 0xC4] with cmdResult := .status .valid } := by decide +kernel

/-- D3, S3: with a bad one. -/
theorem test_decode_errorHash : nextOf (exec (.decode 0xC5) (block .incomplete 16 [0x54, 0x00, 0x40, 0x48])) =
    some { block .errorHash 16 [0x54, 0x00, 0x40, 0x48, 0xC5] with cmdResult := .status .errorHash } := by
  decide +kernel

/-- D10: the header's total is 7, the capacity 5. -/
theorem test_decode_overflow : nextOf (exec (.decode 0x50) (block .incomplete 5 [0x54, 0x00])) =
    some { block .errorOverflow 5 [0x54, 0x00, 0x50] with cmdResult := .status .errorOverflow } := by decide

/-- D11: a total equal to the capacity is accepted. -/
theorem test_decode_total_equal : nextOf (exec (.decode 0x50) (block .incomplete 7 [0x54, 0x00])) =
    some { block .incomplete 7 [0x54, 0x00, 0x50] with cmdResult := .status .incomplete } := by decide

/-- D6: a three-byte frame. -/
theorem test_decode_three_bytes : nextOf (exec (.decode 0x60) (block .incomplete 3 [0x54, 0x00])) =
    some { block .valid 3 [0x54, 0x00, 0x60] with cmdResult := .status .valid } := by decide

/-- D17: CRC-32 over seven bytes. -/
theorem test_decode_crc32 : (after (exec (.decode 0x25) (block .incomplete 528 (d17.take 11)))).status = .valid := by
  decide +kernel

/-- D20, D21: the low-order bytes of the user hash. -/
theorem test_decode_userhash :
    (after (exec (.decode 0x56) (userBlock .incomplete (.constant 0x123456) [0x54, 0x00, 0x70, 0x34]))).status = .valid ∧
    (after (exec (.decode 0x34) (userBlock .incomplete (.constant 0x123456) [0x54, 0x00, 0x70, 0x12]))).status
      = .errorHash := by decide +kernel

/-- R181. -/
theorem test_reset : nextOf (exec .reset (block .errorHash 16 [0x54, 0x00, 0x40, 0x48, 0xC5])) =
    some { block .idle 16 [] with cmdResult := .status .idle } := by decide

/-- 2.8: 600 is clamped to 528; 2 is rejected and changes nothing. -/
theorem test_init : nextOf (exec (.init 600) State.reset) = some { block .idle 528 [] with cmdResult := .ok } ∧
    nextOf (exec (.init 2) (block .incomplete 16 [0x54, 0x00])) =
      some { block .incomplete 16 [0x54, 0x00] with cmdResult := .error .bufferTooSmall } := by decide

/-- 2.9, after D3 and after D9. -/
theorem test_calchash :
    (after (exec .calchash (block .errorHash 16 [0x54, 0x00, 0x40, 0x48, 0xC5]))).cmdResult = .hash 2 0x48C4 ∧
    (after (exec .calchash (block .errorOverflow 8 [0x54, 0x00, 0x09]))).cmdResult = .error .frameFormat := by
  decide +kernel

/-- 2.9, before the frame is complete. -/
theorem test_calchash_short :
    (after (exec .calchash (block .incomplete 16 [0x54, 0x00, 0x40, 0x48]))).cmdResult = .error .shortFrame := by
  decide

/-! ## Functions -/

/-- 2.1, row `0x1B 0x5A`. -/
theorem test_unpack : (after (exec (.unpack 0x1B 0x5A) State.reset)).fnResult =
    .header { dab := 0, sab := 1, pfb := 2, ack := 3, cmd := 0, edm := 5, ndb := 10 } := by decide

/-- 2.1, row `0xE4 0x29`. -/
theorem test_pack : (after (exec (.pack { dab := 3, sab := 2, pfb := 1, ack := 0, cmd := 0, edm := 2, ndb := 9 })
    State.reset)).fnResult = .headerBytes 0xE4 0x29 := by decide

/-- 2.1, row `0xAA 0xF5` with `USER_HASH_SIZE = 2`. -/
theorem test_layout :
    (after (exec (.widths (unpackHeader 0xAA 0xF5)) (userBlock .idle (.constant 0) []))).fnResult =
      .widths { da := 2, sa := 2, pf := 2, data := 5, hash := 2 } ∧
    (after (exec (.totalsize (unpackHeader 0xAA 0xF5)) (userBlock .idle (.constant 0) []))).fnResult = .total 16 ∧
    (after (exec (.offsets (unpackHeader 0xAA 0xF5)) (userBlock .idle (.constant 0) []))).fnResult =
      .offsets { da := 3, sa := 5, pf := 7, data := 9, hash := 14 } := by decide

/-- 2.1, the largest frame. -/
theorem test_totalsize_max : (after (exec (.totalsize (unpackHeader 0xFF 0xDE)) State.reset)).fnResult = .total 528 := by
  decide

/-- R92, R96: no hash, width 0. -/
theorem test_no_hash_codes :
    (after (exec .edmNone State.reset)).fnResult = .hash 0 none ∧
    (after (exec .edmRetx3 State.reset)).fnResult = .hash 0 none ∧
    (after (exec .edmFec State.reset)).fnResult = .hash 0 none := by decide

/-- 2.4, ASCII `123456789`. -/
theorem test_checksum8 : (after (exec (.checksum8 [0x31, 0x32, 0x33, 0x34, 0x35, 0x36, 0x37, 0x38, 0x39]) State.reset)).fnResult
    = .hash 1 (some 0xDD) := by decide

theorem test_crc8 : (after (exec (.crc8 [0x31, 0x32, 0x33, 0x34, 0x35, 0x36, 0x37, 0x38, 0x39]) State.reset)).fnResult
    = .hash 1 (some 0xA1) := by decide +kernel

theorem test_crc16 : (after (exec (.crc16 [0x31, 0x32, 0x33, 0x34, 0x35, 0x36, 0x37, 0x38, 0x39]) State.reset)).fnResult
    = .hash 2 (some 0x31C3) := by decide +kernel

theorem test_crc32 : (after (exec (.crc32 [0x31, 0x32, 0x33, 0x34, 0x35, 0x36, 0x37, 0x38, 0x39]) State.reset)).fnResult
    = .hash 4 (some 0xCBF43926) := by decide +kernel

/-- 2.4, S3 and the empty sequence. -/
theorem test_crc_small :
    (after (exec (.crc16 [0x00, 0x40]) State.reset)).fnResult = .hash 2 (some 0x48C4) ∧
    (after (exec (.crc32 []) State.reset)).fnResult = .hash 4 (some 0) ∧
    (after (exec (.crc8 [0xFF]) State.reset)).fnResult = .hash 1 (some 0x35) := by decide +kernel

/-- 2.4 by the table-driven form. -/
theorem test_crc_table :
    (after (exec (.crc8Table [0x40, 0x90, 0x05]) State.reset)).fnResult = .hash 1 (some 0xCD) ∧
    (after (exec (.crc16Table [0x40, 0x90, 0x05]) State.reset)).fnResult = .hash 2 (some 0x55E3) ∧
    (after (exec (.crc32Table [0x40, 0x90, 0x05]) State.reset)).fnResult = .hash 4 (some 0x8EF02A47) := by
  decide +kernel

/-- 2.4 by the arithmetic the statements are held against. -/
theorem test_reference :
    Reference.crc8 [0x40, 0x90, 0x05] = 0xCD ∧ Reference.crc16 [0x40, 0x90, 0x05] = 0x55E3 ∧
    Reference.crc32 [0x40, 0x90, 0x05] = 0x8EF02A47 ∧ Reference.crc8ByTable [0x40, 0x90, 0x05] = 0xCD ∧
    Reference.crc16ByTable [0x40, 0x90, 0x05] = 0x55E3 ∧ Reference.crc32ByTable [0x40, 0x90, 0x05] = 0x8EF02A47 := by
  decide +kernel

/-- 2.5, spot entries. -/
theorem test_tables :
    t8[0x7F]? = some 0xB9 ∧ t16[0x7F]? = some 0x8F78 ∧ t32[0x7F]? = some 0xC0BA6CAD ∧ t8[0xFF]? = some 0x35 ∧
    t16[0xFF]? = some 0x1EF0 ∧ t32[0xFF]? = some 0x2D02EF8D := by decide +kernel

/-- 2.6. -/
theorem test_userhash :
    (after (exec (.userhash [1]) (userBlock .idle (.constant 0x123456) []))).fnResult = .hash 2 (some 0x3456) ∧
    (after (exec (.userhash [1]) (userBlock .idle (.constant 0) []))).fnResult = .hash 2 (some 0) := by decide

/-- 2.6. -/
theorem test_hash :
    (after (exec (.hash 4 [0x00, 0x40]) State.reset)).fnResult = .hash 2 (some 0x48C4) ∧
    (after (exec (.hash 2 [0x00, 0x21, 0xAA]) State.reset)).fnResult = .hash 1 (some 0xCB) ∧
    (after (exec (.hash 6 [1]) State.reset)).fnResult = .hash 0 none := by decide +kernel

/-- 2.2: codes 8, 9, 14 and 15 by their rows and by TOSIZE. -/
theorem test_tosize :
    (after (exec .ndb8 State.reset)).fnResult = .payloadWidth 8 ∧
    (after (exec .ndb9 State.reset)).fnResult = .payloadWidth 16 ∧
    (after (exec .ndb14 State.reset)).fnResult = .payloadWidth 512 ∧
    (after (exec .ndb15 State.reset)).fnResult = .payloadWidth 0 ∧
    (after (exec (.tosize 13) State.reset)).fnResult = .payloadWidth 256 := by decide

/-- 2.2. -/
theorem test_fromsize :
    (after (exec (.fromsize 8) State.reset)).fnResult = .tierCode 8 ∧
    (after (exec (.fromsize 9) State.reset)).fnResult = .tierCode 9 ∧
    (after (exec (.fromsize 200) State.reset)).fnResult = .tierCode 13 ∧
    (after (exec (.fromsize 512) State.reset)).fnResult = .tierCode 14 ∧
    (after (exec (.fromsize 513) State.reset)).fnResult = .tierCode 0 := by decide

/-- 2.3. -/
theorem test_hashsize :
    (after (exec (.hashsize 5) State.reset)).fnResult = .hashWidth 4 ∧
    (after (exec (.hashsize 7) (userBlock .idle (.constant 0) []))).fnResult = .hashWidth 2 := by decide

/-! ## Software around the block -/

/-- 2.10: two addresses, CRC-8, nine bytes of data with the padding before them. -/
theorem test_encapsulate :
    (after (exec (.encapsulate 528
      { plainRequest with
        dab := 2, sab := 1, ack := 1, edm := 3, destAddress := 0xBEEF, sourceAddress := 0x07, data := oneToNine,
        placement := .before }) State.reset)).soft.bytes =
    [0x54, 0x91, 0x39, 0xBE, 0xEF, 0x07, 0, 0, 0, 0, 0, 0, 0] ++ oneToNine ++ [0x7D] := by decide +kernel

/-- S2 with capacity 258: overflow, nothing reported. -/
theorem test_encapsulate_overflow :
    (after (exec (.encapsulate 258 { plainRequest with ack := 2, data := List.replicate 200 1 }) State.reset)).fnResult =
      .encapsulated .errorOverflow 0 := by decide +kernel

/-- 2.11, after D17. -/
theorem test_getfield_valid :
    (after (exec .getfieldHeader (block .valid 528 d17))).fnResult =
      .field 2 (.header { dab := 1, sab := 1, pfb := 0, ack := 0, cmd := 0, edm := 5, ndb := 3 }) ∧
    (after (exec .getfieldDestAddress (block .valid 528 d17))).fnResult = .field 1 (.number 0x0A) ∧
    (after (exec .getfieldSourceAddress (block .valid 528 d17))).fnResult = .field 1 (.number 0x0B) ∧
    (after (exec .getfieldProtocolFlags (block .valid 528 d17))).fnResult = .fieldError .frameFormat ∧
    (after (exec .getfieldData (block .valid 528 d17))).fnResult = .field 3 (.data [0xDE, 0xAD, 0xBE]) ∧
    (after (exec .getfieldHash (block .valid 528 d17))).fnResult = .field 4 (.number 0x19759725) ∧
    (after (exec .getfieldInvalid (block .valid 528 d17))).fnResult = .fieldError .fieldType := by decide +kernel

/-- 2.11, after the first six bytes of D17, and before the header. -/
theorem test_getfield_incomplete :
    (after (exec .getfieldSourceAddress (block .incomplete 528 (d17.take 6)))).fnResult = .field 1 (.number 0x0B) ∧
    (after (exec .getfieldData (block .incomplete 528 (d17.take 6)))).fnResult = .fieldError .shortFrame ∧
    (after (exec .getfieldInvalid (block .incomplete 528 (d17.take 2)))).fnResult = .fieldError .unknownFormat := by
  decide +kernel

/-- RP3, RP7. -/
theorem test_removepadding_before :
    (after (exec (.removepadding .before (List.replicate 7 0 ++ oneToNine)) State.reset)).fnResult =
      .trimmed 9 (oneToNine.map some ++ List.replicate 7 none) ∧
    (after (exec (.removepadding .before ([0, 0, 5] ++ List.replicate 13 0)) State.reset)).fnResult =
      .trimmed 14 ((5 :: List.replicate 13 0).map some ++ [none, none]) := by decide

/-- RP1, RP5. -/
theorem test_removepadding_after :
    (after (exec (.removepadding .after ([1, 0, 2] ++ List.replicate 13 0)) State.reset)).fnResult =
      .trimmed 3 (([1, 0, 2] ++ List.replicate 13 0).map some) ∧
    (after (exec (.removepadding .after (List.replicate 8 0)) State.reset)).fnResult =
      .trimmed 8 (List.replicate 8 (some 0)) := by decide

/-! ## Steps and outputs -/

/-- R88: the reset input; R285: nothing presented; R257 (a): a command before INIT; log 1: no packet. -/
theorem test_step :
    nextOf (step { block .valid 528 d17 with inputs := [.rst] }) = some State.reset ∧
    step State.reset = .refused .noOperation ∧
    step { State.reset with inputs := [.op [0x54, 0, 0, 0]] } = .refused .notInitialised ∧
    step { State.reset with inputs := [.op [0x54]] } = .refused (.undecodable .truncated) :=
  ⟨by decide, rfl, rfl, rfl⟩

/-- P5: `INIT 5` presented right after reset runs first (log 3). -/
theorem test_withFetchWord : nextOf (step (State.reset.withFetchWord 24 0x20005)) =
    some { block .idle 5 [] with cmdResult := .ok } := by decide

/-- R243, R88: outputs after a CALCHASH and after a rejected INIT. -/
theorem test_ports :
    resValuePort { State.reset with cmdResult := .hash 2 0x48C4 } = some 0x48C4 ∧
    resWidthPort { State.reset with cmdResult := .hash 2 0x48C4 } = some 2 ∧
    resErrPort { State.reset with cmdResult := .error .bufferTooSmall } = some 6 ∧
    resErrPort { State.reset with cmdResult := .ok } = some 0 ∧
    capacityPort State.reset = none ∧ lengthPort (block .valid 528 d17) = 12 := by decide

/-- P4's header view. -/
theorem test_headerView : headerView (block .valid 528 d17) = .ok
    { fields := { dab := 1, sab := 1, pfb := 0, ack := 0, cmd := 0, edm := 5, ndb := 3 }
      widths := { da := 1, sa := 1, pf := 0, data := 3, hash := 4 }
      offsets := { da := 3, sa := 4, pf := 5, data := 5, hash := 8 }
      total := 12 } := by decide

/-! ## Witnesses: states with the invariants -/

theorem standard_wf : Config.standard.wf := by decide

/-- An initialised block with nothing stored. -/
theorem inv_idle (cap : Nat) (h : 3 ≤ cap ∧ cap ≤ 528) : FrameInv (block .idle cap []) where
  build := standard_wf
  filled := rfl
  uninitialised := fun h => nomatch h
  bounds := fun c hc => by
    obtain rfl : cap = c := Option.some.inj hc
    exact ⟨h.1, h.2, Nat.zero_le _⟩
  idle := by simp [block]
  sync := fun h => absurd h (by simp [block])
  incomplete := fun h => nomatch h
  completed := fun h => by simp [block] at h
  valid := fun h => nomatch h
  errorHash := fun h => nomatch h
  overflow := fun h => nomatch h

/-- One and two bytes of a frame. -/
theorem inv_sync : FrameInv (block .incomplete 16 [0x54]) where
  build := by decide
  filled := rfl
  uninitialised := fun h => nomatch h
  bounds := fun c hc => by
    obtain rfl : 16 = c := Option.some.inj hc
    decide
  idle := by decide
  sync := fun _ => rfl
  incomplete := fun _ c hc => by
    obtain rfl : 16 = c := Option.some.inj hc
    exact ⟨by decide, Or.inl (by decide)⟩
  completed := fun h => by simp [block] at h
  valid := fun h => nomatch h
  errorHash := fun h => nomatch h
  overflow := fun h => nomatch h

theorem inv_two (cap : Nat) (h : 3 ≤ cap ∧ cap ≤ 528) : FrameInv (block .incomplete cap [0x54, 0x00]) where
  build := standard_wf
  filled := rfl
  uninitialised := fun h => nomatch h
  bounds := fun c hc => by
    obtain rfl : cap = c := Option.some.inj hc
    exact ⟨h.1, h.2, Nat.le_trans (show 2 ≤ 3 by decide) h.1⟩
  idle := by simp [block]
  sync := fun _ => rfl
  incomplete := fun _ c hc => by
    obtain rfl : cap = c := Option.some.inj hc
    exact ⟨Nat.lt_of_lt_of_le (show 2 < 3 by decide) h.1, Or.inl (show 2 < 3 by decide)⟩
  completed := fun h => by simp [block] at h
  valid := fun h => nomatch h
  errorHash := fun h => nomatch h
  overflow := fun h => nomatch h

/-- D3 and D4 after three and after four bytes. -/
theorem inv_three : FrameInv (block .incomplete 16 [0x54, 0x00, 0x40]) where
  build := by decide
  filled := rfl
  uninitialised := fun h => nomatch h
  bounds := fun c hc => by
    obtain rfl : 16 = c := Option.some.inj hc
    decide
  idle := by decide
  sync := fun _ => rfl
  incomplete := fun _ c hc => by
    obtain rfl : 16 = c := Option.some.inj hc
    exact ⟨by decide, Or.inr ⟨_, rfl, by decide, by decide⟩⟩
  completed := fun h => by simp [block] at h
  valid := fun h => nomatch h
  errorHash := fun h => nomatch h
  overflow := fun h => nomatch h

theorem inv_four : FrameInv (block .incomplete 16 [0x54, 0x00, 0x40, 0x48]) where
  build := by decide
  filled := rfl
  uninitialised := fun h => nomatch h
  bounds := fun c hc => by
    obtain rfl : 16 = c := Option.some.inj hc
    decide
  idle := by decide
  sync := fun _ => rfl
  incomplete := fun _ c hc => by
    obtain rfl : 16 = c := Option.some.inj hc
    exact ⟨by decide, Or.inr ⟨_, rfl, by decide, by decide⟩⟩
  completed := fun h => by simp [block] at h
  valid := fun h => nomatch h
  errorHash := fun h => nomatch h
  overflow := fun h => nomatch h

/-- The header all these frames hold: `edm = 4`, everything else 0. -/
def crc16Header : HeaderFields := unpackHeader 0x00 0x40

/-- D4, complete and valid. -/
theorem inv_valid : FrameInv (block .valid 16 [0x54, 0x00, 0x40, 0x48, 0xC4]) where
  build := by decide
  filled := rfl
  uninitialised := fun h => nomatch h
  bounds := fun c hc => by
    obtain rfl : 16 = c := Option.some.inj hc
    decide
  idle := by decide
  sync := fun _ => rfl
  incomplete := fun h => nomatch h
  completed := fun _ => ⟨by decide, crc16Header, rfl, by decide⟩
  valid := fun _ f hf => by
    obtain rfl : crc16Header = f := Except.ok.inj hf
    exact Or.inr ⟨[0x00, 0x40], [0x48, 0xC4], rfl, rfl, by decide +kernel⟩
  errorHash := fun h => nomatch h
  overflow := fun h => nomatch h

/-- The header of D17: one byte in each address, no flags, CRC-32, three bytes of payload. -/
def d17Header : HeaderFields := unpackHeader 0x50 0x53

/-- D17, complete and valid, with addresses, a payload and a hash. -/
theorem inv_d17 : FrameInv (block .valid 528 d17) where
  build := by decide
  filled := rfl
  uninitialised := fun h => nomatch h
  bounds := fun c hc => by
    obtain rfl : 528 = c := Option.some.inj hc
    decide
  idle := by decide
  sync := fun _ => rfl
  incomplete := fun h => nomatch h
  completed := fun _ => ⟨by decide, d17Header, rfl, by decide⟩
  valid := fun _ f hf => by
    obtain rfl : d17Header = f := Except.ok.inj hf
    exact Or.inr ⟨[0x50, 0x53, 0x0A, 0x0B, 0xDE, 0xAD, 0xBE], [0x19, 0x75, 0x97, 0x25], rfl, rfl, by decide +kernel⟩
  errorHash := fun h => nomatch h
  overflow := fun h => nomatch h

/-- D3, complete with a bad hash. -/
theorem inv_errorHash : FrameInv (block .errorHash 16 [0x54, 0x00, 0x40, 0x48, 0xC5]) where
  build := by decide
  filled := rfl
  uninitialised := fun h => nomatch h
  bounds := fun c hc => by
    obtain rfl : 16 = c := Option.some.inj hc
    decide
  idle := by decide
  sync := fun _ => rfl
  incomplete := fun h => nomatch h
  completed := fun _ => ⟨by decide, crc16Header, rfl, by decide⟩
  valid := fun h => nomatch h
  errorHash := fun _ f hf => by
    obtain rfl : crc16Header = f := Except.ok.inj hf
    exact ⟨by decide, [0x00, 0x40], [0x48, 0xC5], rfl, rfl, by decide +kernel⟩
  overflow := fun h => nomatch h

/-- A header whose total is 5 in a block of capacity 4. -/
theorem inv_overflow : FrameInv (block .errorOverflow 4 [0x54, 0x00, 0x40]) where
  build := by decide
  filled := rfl
  uninitialised := fun h => nomatch h
  bounds := fun c hc => by
    obtain rfl : 4 = c := Option.some.inj hc
    decide
  idle := by decide
  sync := fun _ => rfl
  incomplete := fun h => nomatch h
  completed := fun h => by simp [block] at h
  valid := fun h => nomatch h
  errorHash := fun h => nomatch h
  overflow := fun _ => ⟨rfl, fun c hc => by
    obtain rfl : 4 = c := Option.some.inj hc
    exact ⟨crc16Header, rfl, by decide⟩⟩

/-- D6, the three-byte frame without a hash. -/
theorem inv_three_bytes : FrameInv (block .valid 3 [0x54, 0x00, 0x60]) where
  build := by decide
  filled := rfl
  uninitialised := fun h => nomatch h
  bounds := fun c hc => by
    obtain rfl : 3 = c := Option.some.inj hc
    decide
  idle := by decide
  sync := fun _ => rfl
  incomplete := fun h => nomatch h
  completed := fun _ => ⟨by decide, unpackHeader 0x00 0x60, rfl, by decide⟩
  valid := fun _ f hf => by
    obtain rfl : unpackHeader 0x00 0x60 = f := Except.ok.inj hf
    exact Or.inl (by decide)
  errorHash := fun h => nomatch h
  overflow := fun h => nomatch h

/-- The driver's queue is no part of the invariants. -/
theorem inv_inputs {s : State} (h : FrameInv s) (q : List Input) : FrameInv (s.setInputs q) where
  build := h.build
  filled := h.filled
  uninitialised := h.uninitialised
  bounds := h.bounds
  idle := h.idle
  sync := h.sync
  incomplete := h.incomplete
  completed := h.completed
  valid := fun hs f hf => by
    rw [hashedBytes_congr (t := s.setInputs q) (s := s) rfl rfl rfl,
      storedHash_congr (t := s.setInputs q) (s := s) rfl rfl rfl]
    exact h.valid hs f hf
  errorHash := fun hs f hf => by
    rw [hashedBytes_congr (t := s.setInputs q) (s := s) rfl rfl rfl,
      storedHash_congr (t := s.setInputs q) (s := s) rfl rfl rfl]
    exact h.errorHash hs f hf
  overflow := h.overflow

/-! ## Witnesses: every obligation with hypotheses, clause by clause -/

/-- The hypotheses most statements about commands share. -/
def Ready (s : State) (cap : Nat) (status : Status) : Prop :=
  FrameInv s ∧ s.capacity = some cap ∧ s.status = status

theorem witness_HardwareResetGivesIdleAndNoValues :
    ({ block .valid 528 d17 with inputs := [.rst] } : State).inputs = .rst :: [] ∧ State.reset.capacity = none :=
  ⟨rfl, rfl⟩

theorem witness_CommandsWaitForASuccessfulInit :
    State.reset.capacity = none ∧ 3 ≤ (3 : BitVec 16).toNat ∧ (2 : BitVec 16).toNat < 3 := by decide

theorem witness_InitLoadsTheClampedCapacityOrRejects :
    (2 : BitVec 16).toNat < 3 ∧ 3 ≤ (3 : BitVec 16).toNat ∧ 528 < (529 : BitVec 16).toNat := by decide

theorem witness_ResetReturnsToIdle :
    (block .errorOverflow 4 [0x54, 0x00, 0x40]).capacity = some 4 ∧ State.reset.capacity = none := by decide

theorem witness_DecodeInIdleWaitsForSync :
    (block .idle 3 []).capacity = some 3 ∧ (block .idle 3 []).status = .idle ∧
      (0x53 : Byte) ≠ (block .idle 3 []).config.sync := by decide

theorem witness_NoiseBeforeSyncLeavesNoTrace :
    (block .idle 3 []).capacity = some 3 ∧ (block .idle 3 []).status = .idle ∧ ([0x00, 0x53] : List Byte) ≠ [] ∧
      ∀ b ∈ ([0x00, 0x53] : List Byte), b ≠ (block .idle 3 []).config.sync := by decide

/-- Length 1, and length 2 with the total above, at and below the capacity. -/
theorem witness_DecodeOfTheHeaderBytes :
    (Ready (block .incomplete 16 [0x54]) 16 .incomplete ∧ (block .incomplete 16 [0x54]).length = 1) ∧
    (Ready (block .incomplete 4 [0x54, 0x00]) 4 .incomplete ∧ (block .incomplete 4 [0x54, 0x00]).length = 2 ∧
      4 < totalSize Config.standard (unpackHeader 0x00 0x40)) ∧
    (Ready (block .incomplete 3 [0x54, 0x00]) 3 .incomplete ∧
      totalSize Config.standard (unpackHeader 0x00 0x60) = 3) ∧
    Ready (block .incomplete 5 [0x54, 0x00]) 5 .incomplete ∧
      totalSize Config.standard (unpackHeader 0x00 0x40) = 5 :=
  ⟨⟨⟨inv_sync, rfl, rfl⟩, rfl⟩, ⟨⟨inv_two 4 (by decide), rfl, rfl⟩, rfl, by decide⟩,
    ⟨⟨inv_two 3 (by decide), rfl, rfl⟩, by decide⟩, ⟨inv_two 5 (by decide), rfl, rfl⟩, by decide⟩

/-- One byte before the last and at the last, the last good and bad. -/
theorem witness_DecodeAfterTheHeaderDecidesAtTotal :
    (Ready (block .incomplete 16 [0x54, 0x00, 0x40]) 16 .incomplete ∧
      3 ≤ (block .incomplete 16 [0x54, 0x00, 0x40]).length ∧
      frameHeader (block .incomplete 16 [0x54, 0x00, 0x40]) = .ok crc16Header) ∧
    Ready (block .incomplete 16 [0x54, 0x00, 0x40, 0x48]) 16 .incomplete ∧
      3 ≤ (block .incomplete 16 [0x54, 0x00, 0x40, 0x48]).length ∧
      frameHeader (block .incomplete 16 [0x54, 0x00, 0x40, 0x48]) = .ok crc16Header ∧
      (block .incomplete 16 [0x54, 0x00, 0x40, 0x48]).length + 1 = totalSize Config.standard crc16Header ∧
      hashBy Config.standard 4 [0x00, 0x40] = some (be [0x48, 0xC4]) ∧
      hashBy Config.standard 4 [0x00, 0x40] ≠ some (be [0x48, 0xC5]) :=
  ⟨⟨⟨inv_three, rfl, rfl⟩, by decide, rfl⟩, ⟨inv_four, rfl, rfl⟩, by decide, rfl, by decide, by decide +kernel,
    by decide +kernel⟩

theorem witness_OverflowExactlyWhereTotalExceedsCapacity :
    Ready (block .incomplete 4 [0x54, 0x00]) 4 .incomplete ∧
      4 < totalSize Config.standard (unpackHeader 0x00 0x40) ∧
      Ready (block .incomplete 5 [0x54, 0x00]) 5 .incomplete ∧
      ¬ 5 < totalSize Config.standard (unpackHeader 0x00 0x40) :=
  ⟨⟨inv_two 4 (by decide), rfl, rfl⟩, by decide, ⟨inv_two 5 (by decide), rfl, rfl⟩, by decide⟩

theorem witness_TerminalStatusIgnoresBytes :
    (block .valid 16 [0x54, 0x00, 0x40, 0x48, 0xC4]).capacity = some 16 ∧
    (block .valid 16 [0x54, 0x00, 0x40, 0x48, 0xC4]).status = .valid ∧
    (block .errorHash 16 [0x54, 0x00, 0x40, 0x48, 0xC5]).status = .errorHash ∧
    (block .errorOverflow 4 [0x54, 0x00, 0x40]).status = .errorOverflow := by decide

/-- A byte stored in `Idle`, one stored later, one discarded, one ignored. -/
theorem witness_DecodeStoresAtOneIndexOnly :
    (∃ t, exec (.decode 0x54) (block .idle 16 []) = .next t) ∧
    (∃ t, exec (.decode 0x00) (block .incomplete 16 [0x54]) = .next t) ∧
    (∃ t, exec (.decode 0x53) (block .idle 16 []) = .next t ∧ (0x53 : Byte) ≠ Config.standard.sync) ∧
    (∃ t, exec (.decode 0x53) (block .valid 3 [0x54, 0x00, 0x60]) = .next t) ∧
      (block .valid 3 [0x54, 0x00, 0x60]).terminal = true :=
  ⟨⟨_, rfl⟩, ⟨_, rfl⟩, ⟨_, rfl, by decide⟩, ⟨_, rfl⟩, rfl⟩

/-- A total equal to the capacity, with the first and the last `k`, and one above it. -/
theorem witness_FrameTakesItsTotalOfDecodes :
    Ready (block .idle 5 []) 5 .idle ∧ totalSize Config.standard (unpackHeader 0x00 0x40) ≤ 5 ∧
      3 + ([0x48, 0xC4] : List Byte).length = totalSize Config.standard (unpackHeader 0x00 0x40) ∧
      1 < 3 + ([0x48, 0xC4] : List Byte).length ∧ 4 < 3 + ([0x48, 0xC4] : List Byte).length ∧
      Ready (block .idle 4 []) 4 .idle ∧ 4 < totalSize Config.standard (unpackHeader 0x00 0x40) :=
  ⟨⟨inv_idle 5 (by decide), rfl, rfl⟩, by decide, by decide, by decide, by decide,
    ⟨inv_idle 4 (by decide), rfl, rfl⟩, by decide⟩

/-- Length 2; no hash at length 3; a hash with one byte missing, and complete. -/
theorem witness_CalchashChecksThenHashes :
    (Ready (block .incomplete 16 [0x54, 0x00]) 16 .incomplete ∧ (block .incomplete 16 [0x54, 0x00]).length < 3) ∧
    (Ready (block .valid 3 [0x54, 0x00, 0x60]) 3 .valid ∧
      frameHeader (block .valid 3 [0x54, 0x00, 0x60]) = .ok (unpackHeader 0x00 0x60) ∧
      hashSize Config.standard (unpackHeader 0x00 0x60).edm = 0) ∧
    (Ready (block .incomplete 16 [0x54, 0x00, 0x40, 0x48]) 16 .incomplete ∧
      frameHeader (block .incomplete 16 [0x54, 0x00, 0x40, 0x48]) = .ok crc16Header ∧
      hashSize Config.standard crc16Header.edm ≠ 0 ∧
      (block .incomplete 16 [0x54, 0x00, 0x40, 0x48]).length
        < (offsetsOf crc16Header).hash + hashSize Config.standard crc16Header.edm) ∧
    Ready (block .valid 16 [0x54, 0x00, 0x40, 0x48, 0xC4]) 16 .valid ∧
      frameHeader (block .valid 16 [0x54, 0x00, 0x40, 0x48, 0xC4]) = .ok crc16Header ∧
      (offsetsOf crc16Header).hash + hashSize Config.standard crc16Header.edm
        ≤ (block .valid 16 [0x54, 0x00, 0x40, 0x48, 0xC4]).length :=
  ⟨⟨⟨inv_two 16 (by decide), rfl, rfl⟩, by decide⟩, ⟨⟨inv_three_bytes, rfl, rfl⟩, rfl, by decide⟩,
    ⟨⟨inv_four, rfl, rfl⟩, rfl, by decide, by decide⟩, ⟨inv_valid, rfl, rfl⟩, rfl, by decide⟩

theorem witness_CalchashAgreesWithTheStatus :
    hashSize Config.standard crc16Header.edm ≠ 0 ∧
    (Ready (block .valid 16 [0x54, 0x00, 0x40, 0x48, 0xC4]) 16 .valid ∧
      frameHeader (block .valid 16 [0x54, 0x00, 0x40, 0x48, 0xC4]) = .ok crc16Header) ∧
    (Ready (block .errorHash 16 [0x54, 0x00, 0x40, 0x48, 0xC5]) 16 .errorHash ∧
      frameHeader (block .errorHash 16 [0x54, 0x00, 0x40, 0x48, 0xC5]) = .ok crc16Header) ∧
    Ready (block .errorOverflow 4 [0x54, 0x00, 0x40]) 4 .errorOverflow ∧
      frameHeader (block .errorOverflow 4 [0x54, 0x00, 0x40]) = .ok crc16Header :=
  ⟨by decide, ⟨⟨inv_valid, rfl, rfl⟩, rfl⟩, ⟨⟨inv_errorHash, rfl, rfl⟩, rfl⟩, ⟨inv_overflow, rfl, rfl⟩, rfl⟩

/-- A step from a state with the invariants: the last byte of D4. -/
theorem witness_StepKeepsFrameInv :
    FrameInv ((block .incomplete 16 [0x54, 0x00, 0x40, 0x48]).setInputs [.op [0xC4, 0, 0, 0]]) ∧
      (nextOf (step ((block .incomplete 16 [0x54, 0x00, 0x40, 0x48]).setInputs [.op [0xC4, 0, 0, 0]]))).isSome = true :=
  ⟨inv_inputs inv_four _, by decide +kernel⟩

theorem witness_StepKeepsMemoryCanonical :
    (block .incomplete 16 [0x54, 0x00, 0x40, 0x48]).buf.wf ∧
      (nextOf (step ((block .incomplete 16 [0x54, 0x00, 0x40, 0x48]).setInputs [.op [0xC4, 0, 0, 0]]))).isSome = true := by
  decide +kernel

theorem witness_EveryOperationRunsToCompletion :
    FrameInv (block .errorOverflow 4 [0x54, 0x00, 0x40]) ∧
      ((block .errorOverflow 4 [0x54, 0x00, 0x40]).capacity ≠ none ∧ commandInstr .getfieldHash = false) :=
  ⟨inv_overflow, by decide⟩

/-- A terminal status with an ignored byte, a RESET, an INIT at the least capacity and a rejected one. -/
theorem witness_OnlyResetAndInitLeaveATerminalStatus :
    (block .valid 3 [0x54, 0x00, 0x60]).terminal = true ∧
    (∃ t, exec (.decode 0x54) (block .valid 3 [0x54, 0x00, 0x60]) = .next t) ∧
    (∃ t, exec .reset (block .valid 3 [0x54, 0x00, 0x60]) = .next t) ∧
    (∃ t, exec (.init 3) (block .valid 3 [0x54, 0x00, 0x60]) = .next t) ∧
    ∃ t, exec (.init 2) (block .valid 3 [0x54, 0x00, 0x60]) = .next t :=
  ⟨rfl, ⟨_, rfl⟩, ⟨_, rfl⟩, ⟨_, rfl⟩, ⟨_, rfl⟩⟩

theorem witness_OnlyInitWritesTheCapacity :
    State.reset.config.wf ∧ (∃ t, exec (.init 3) State.reset = .next t) ∧
    (∃ t, exec (.init 529) State.reset = .next t) ∧ (∃ t, exec (.init 2) State.reset = .next t) ∧
    ∃ t, exec .reset (block .idle 16 []) = .next t :=
  ⟨by decide, ⟨_, rfl⟩, ⟨_, rfl⟩, ⟨_, rfl⟩, ⟨_, rfl⟩⟩

theorem witness_OnlyDecodeStoresABufferByte :
    (∃ t, exec (.decode 0x54) (block .idle 16 []) = .next t) ∧ (∃ t, exec .reset (block .idle 16 []) = .next t) ∧
    (∃ t, exec (.init 3) State.reset = .next t) ∧ ∃ t, exec .getfieldData State.reset = .next t :=
  ⟨⟨_, rfl⟩, ⟨_, rfl⟩, ⟨_, rfl⟩, ⟨_, rfl⟩⟩

theorem witness_FunctionsLeaveTheBlockAlone :
    commandInstr .getfieldData = false ∧ (∃ t, exec .getfieldData State.reset = .next t) ∧
    commandInstr (.encapsulate 3 plainRequest) = false ∧ ∃ t, exec (.encapsulate 3 plainRequest) State.reset = .next t :=
  ⟨rfl, ⟨_, rfl⟩, rfl, ⟨_, rfl⟩⟩

theorem witness_FunctionResultsDependOnArgumentsAlone :
    commandInstr (.crc16 [0x40]) = false ∧ getfieldInstr (.crc16 [0x40]) = false ∧
    State.reset.config = (block .valid 528 d17).config ∧ ∃ t, exec (.crc16 [0x40]) State.reset = .next t :=
  ⟨rfl, rfl, rfl, ⟨_, rfl⟩⟩

theorem witness_StepKeepsTheBuild : ∃ t, step ((block .valid 528 d17).setInputs [.rst]) = .next t := ⟨_, rfl⟩

theorem witness_StepRunsTheDecodedOperation :
    (State.reset.setInputs [.op [5, 0, 2, 0]]).inputs = .op [5, 0, 2, 0] :: [] ∧
    decode [5, 0, 2, 0] = .ok (.init 5) ∧ decode [5] = .error .truncated ∧
    decodeTableWord 24 0x20005 = some (.init 5) := by decide

theorem witness_DecodeInvertsEncode :
    (Instr.encapsulate 0xFFFF { plainRequest with destAddress := 2 ^ 32 - 1 }).wellFormed = true ∧
    (Instr.fromsize (2 ^ 24 - 1)).wellFormed = true := by decide

theorem witness_PackAndUnpackAreInverse :
    exec (.pack (unpackHeader 0xE4 0x29)) State.reset =
      .next { State.reset with fnResult := .headerBytes 0xE4 0x29 } ∧
    exec (.unpack 0xE4 0x29) State.reset = .next { State.reset with fnResult := .header (unpackHeader 0xE4 0x29) } :=
  ⟨rfl, rfl⟩

theorem witness_TosizeGivesTheTier :
    (8 : BitVec 4).toNat ≤ 8 ∧ 9 ≤ (9 : BitVec 4).toNat ∧ (14 : BitVec 4).toNat ≤ 14 ∧ (15 : BitVec 4).toNat = 15 := by
  decide

theorem witness_FromsizeGivesTheLeastTier :
    512 < 513 ∧ 8 ≤ 8 ∧ (8 < 9 ∧ 9 ≤ 512) ∧ (8 < 512 ∧ 512 ≤ 512) ∧
    9 ≤ (14 : BitVec 4).toNat ∧ (14 : BitVec 4).toNat ≤ 14 ∧ 512 ≤ toSize 14 := by decide

theorem witness_TierTableLaws :
    512 ≤ 512 ∧ 512 < 513 ∧ 8 ≤ 9 ∧ (14 : BitVec 4).toNat ≤ 14 ∧ (8 : BitVec 4).toNat < (9 : BitVec 4).toNat := by decide

/-- The standard build meets the engines' conditions. -/
theorem witness_engine_parameters :
    State.reset.config.checksumInit = 0 ∧ State.reset.config.crc8 = Config.standard.crc8 ∧
    State.reset.config.crc16 = Config.standard.crc16 ∧ State.reset.config.crc32 = Config.standard.crc32 ∧
    State.reset.config.userHash = .constant 0 := by decide

theorem witness_HashDispatchesOnTheMethod :
    ((0 : BitVec 3) = 0 ∨ (0 : BitVec 3) = 1 ∨ (0 : BitVec 3) = 6) ∧ (6 : BitVec 3) = 6 := by decide

/-- Both hash ranges; the total at the capacity, with and without a hash, and one above it. -/
theorem witness_EncapsulateLaysTheFrameOut :
    State.reset.config.hashFirstIndex = 1 ∧ ({ Config.standard with hashFirstIndex := 0 } : Config).hashFirstIndex ≠ 1 ∧
    totalSize Config.standard (Reference.requestHeader { plainRequest with edm := 4 }) ≤ (5 : BitVec 16).toNat ∧
    hashSize Config.standard 4 ≠ 0 ∧
    totalSize Config.standard (Reference.requestHeader plainRequest) ≤ (3 : BitVec 16).toNat ∧
    hashSize Config.standard plainRequest.edm = 0 ∧
    (4 : BitVec 16).toNat < totalSize Config.standard (Reference.requestHeader { plainRequest with edm := 4 }) := by decide

theorem witness_EncapsulateThenFeedIsValid :
    Ready (block .idle 8 []) 8 .idle ∧
    totalSize Config.standard (Reference.requestHeader smallRequest) ≤ (8 : BitVec 16).toNat ∧
    totalSize Config.standard (Reference.requestHeader smallRequest) ≤ 8 ∧ smallRequest.dab ≠ 0 ∧
    smallRequest.sab ≠ 0 ∧ smallRequest.pfb ≠ 0 ∧ toSize (fromSize smallRequest.data.length) ≠ 0 :=
  ⟨⟨inv_idle 8 (by decide), rfl, rfl⟩, by decide⟩

theorem witness_QueriesBeforeTheHeaderAreUnknownFormat :
    (block .incomplete 16 [0x54, 0x00]).length < 3 ∧ (block .incomplete 16 [0x54, 0x00]).capacity = some 16 ∧
    State.reset.length < 3 := by decide

/-- A frame with only its header stored, where the hash is short and the address absent, and a complete frame (D17)
whose addresses, payload and hash are present and complete, the last one ending at the length itself. -/
theorem witness_GetfieldReadsTheField :
    (FrameInv (block .incomplete 16 [0x54, 0x00, 0x40]) ∧
      frameHeader (block .incomplete 16 [0x54, 0x00, 0x40]) = .ok crc16Header ∧
      Reference.numberField (block .incomplete 16 [0x54, 0x00, 0x40]) 3 0 = .fieldError .frameFormat ∧
      Reference.numberField (block .incomplete 16 [0x54, 0x00, 0x40]) 3 2 = .fieldError .shortFrame) ∧
    FrameInv (block .valid 528 d17) ∧ frameHeader (block .valid 528 d17) = .ok d17Header ∧
    Reference.numberField (block .valid 528 d17) 3 d17Header.dab.toNat = .field 1 (.number 0x0A) ∧
    Reference.numberField (block .valid 528 d17) 4 d17Header.sab.toNat = .field 1 (.number 0x0B) ∧
    Reference.dataField (block .valid 528 d17) 5 (toSize d17Header.ndb) = .field 3 (.data [0xDE, 0xAD, 0xBE]) ∧
    Reference.numberField (block .valid 528 d17) 8 (hashSize Config.standard d17Header.edm) =
      .field 4 (.number 0x19759725) :=
  ⟨⟨inv_three, rfl, by decide, by decide⟩, inv_d17, rfl, by decide, by decide, by decide, by decide⟩

/-- Lengths 8 and 9, padding after and before, all zero and not. -/
theorem witness_RemovepaddingDropsTheZeroEdge :
    (List.replicate 8 (0 : Byte)).length ≤ 8 ∧ 8 < (List.replicate 9 (0 : Byte)).length ∧
    8 < (0 :: oneToNine).length ∧ trimmedLength .before (0 :: oneToNine) = 9 ∧
    trimmedLength .before (List.replicate 9 0) = 0 := by decide

theorem witness_RemovepaddingKeepsATrimmedLength :
    (List.replicate 8 (0 : Byte)).length ≤ 8 ∧ oneToNine.getLast? ≠ some 0 ∧ oneToNine.head? ≠ some 0 := by decide

/-- The last stored index and the first one above, for a header just complete and one not yet. -/
theorem witness_PortsReadStoredBytesOnly :
    FrameInv (block .incomplete 16 [0x54, 0x00, 0x40]) ∧
    (2 : BitVec 10).toNat < (block .incomplete 16 [0x54, 0x00, 0x40]).length ∧
    (block .incomplete 16 [0x54, 0x00, 0x40]).length ≤ (3 : BitVec 10).toNat ∧
    FrameInv (block .incomplete 16 [0x54, 0x00]) ∧ (block .incomplete 16 [0x54, 0x00]).length < 3 :=
  ⟨inv_three, by decide, by decide, inv_two 16 (by decide), by decide⟩

theorem witness_OutputCodesFollowTheTables : (2 : BitVec 16).toNat < 3 ∧ 3 ≤ (3 : BitVec 16).toNat := by decide

end Sys2Proof.Tests
end

/-! O49 (00_scope.md R8): the two forms of a CRC engine agree, so the build parameter that picks one changes no result. -/

namespace Sys2Proof.Machine

/-! ## The two forms of a CRC engine -/

section Engines

variable {w : Nat} (p : CrcParams w)

/-- A byte step splits, by linearity, into a table entry and the shifts of what the entry does not cover. -/
theorem crcStep_eq_crcShifts_xor_crcEntry (acc : BitVec w) (b i : Byte) :
    crcStep p acc b = crcShifts p 8 (acc ^^^ crcAlign p b ^^^ crcAlign p i) ^^^ crcEntry p i := by
  rw [crcEntry, ← crcShifts_xor, BitVec.xor_assoc, BitVec.xor_self, BitVec.xor_zero, crcStep]

/-- Reflected: without its low byte, the register is only shifted down. -/
theorem crcTableStep_eq_crcStep_of_reflected (hp : p.reflected = true) (acc : BitVec w) (b : Byte) :
    crcTableStep p acc b = crcStep p acc b := by
  rw [crcStep_eq_crcShifts_xor_crcEntry p acc b ((acc ^^^ b.setWidth w).setWidth 8),
    crcShifts_reflected hp, crcTableStep, if_pos hp]
  · congr 1
    ext i hi
    simp [crcAlign, hp]
  · intro i hi
    by_cases hw : i < w
    · simp [crcAlign, hp, hi, hw]
    · have hwi : w ≤ i := by omega
      simp [BitVec.getLsbD_of_ge, hwi]

/-- Not reflected: without its high byte, the register is only shifted up. -/
theorem crcTableStep_eq_crcStep_of_forward (hw : 8 ≤ w) (hp : p.reflected = false) (acc : BitVec w) (b : Byte) :
    crcTableStep p acc b = crcStep p acc b := by
  rw [crcStep_eq_crcShifts_xor_crcEntry p acc b ((acc >>> (w - 8)).setWidth 8 ^^^ b),
    crcShifts_forward hp 8 hw, crcTableStep, if_neg (by simp [hp])]
  · congr 1
    ext i hi
    by_cases h8 : i < 8
    · simp [h8]
    · have hlow : i - 8 < w - 8 := by omega
      simp [crcAlign, hp, hlow]
  · intro i hi
    obtain ⟨j, hj, hij⟩ : ∃ j < 8, w - 1 - i = w - 8 + j := ⟨7 - i, by omega, by omega⟩
    have hjw : w - 8 + j < w := by omega
    have hjw' : j < w := by omega
    simp [crcAlign, hp, hij, hj, hjw, hjw']

/-- R150, one byte: the table-driven step is the bit-serial one, in every register that holds a byte. -/
theorem crcTableStep_eq_crcStep (hw : 8 ≤ w) : crcTableStep p = crcStep p := by
  funext acc b
  cases hp : p.reflected with
  | true => exact crcTableStep_eq_crcStep_of_reflected p hp acc b
  | false => exact crcTableStep_eq_crcStep_of_forward p hw hp acc b

/-- R150, a byte sequence. -/
theorem crcByTable_eq_crc (hw : 8 ≤ w) (d : List Byte) : crcByTable p d = crc p d := by
  rw [crcByTable, crcTableStep_eq_crcStep p hw, crc]

/-- Either form the build may contain computes the bit-serial CRC. -/
theorem crcBuilt_eq_crc (hw : 8 ≤ w) (impl : HashImpl) (d : List Byte) : crcBuilt impl p d = crc p d := by
  cases impl with
  | bitwise => rfl
  | table => exact crcByTable_eq_crc p hw d

end Engines

/-! ## What does not see `HASH_IMPL` -/

section Reads

variable (impl : HashImpl) (s : State)

@[simp] theorem hashBy_withImpl (edm : BitVec 3) (d : List Byte) :
    hashBy (s.withImpl impl).config edm d = hashBy s.config edm d := by
  simp only [hashBy, crcBuilt_eq_crc _ (show 8 ≤ 8 by decide), crcBuilt_eq_crc _ (show 8 ≤ 16 by decide),
    crcBuilt_eq_crc _ (show 8 ≤ 32 by decide)]
  rfl

@[simp] theorem hashSize_withImpl (edm : BitVec 3) : hashSize (s.withImpl impl).config edm = hashSize s.config edm := rfl

@[simp] theorem totalSize_withImpl (f : HeaderFields) :
    totalSize (s.withImpl impl).config f = totalSize s.config f := rfl

@[simp] theorem Field.place_withImpl (f : HeaderFields) (fd : Field) :
    fd.place (s.withImpl impl).config f = fd.place s.config f := rfl

@[simp] theorem readBytes_withImpl (i n : Nat) : readBytes (s.withImpl impl) i n = readBytes s i n :=
  readBytes_congr (State.withImpl_length s impl) (State.withImpl_buf s impl) i n

@[simp] theorem frameHeader_withImpl : frameHeader (s.withImpl impl) = frameHeader s :=
  frameHeader_congr (State.withImpl_length s impl) (State.withImpl_buf s impl)

@[simp] theorem hashedBytes_withImpl (f : HeaderFields) : hashedBytes (s.withImpl impl) f = hashedBytes s f :=
  hashedBytes_congr (State.withImpl_length s impl) (State.withImpl_buf s impl) rfl f

@[simp] theorem storedHash_withImpl (f : HeaderFields) : storedHash (s.withImpl impl) f = storedHash s f :=
  storedHash_congr (State.withImpl_length s impl) (State.withImpl_buf s impl) rfl f

@[simp] theorem completion_withImpl (f : HeaderFields) : completion (s.withImpl impl) f = completion s f := by
  simp only [completion, hashSize_withImpl, hashedBytes_withImpl, storedHash_withImpl, hashBy_withImpl]

@[simp] theorem judge_withImpl (cap : Nat) : judge (s.withImpl impl) cap = judge s cap := by
  simp only [judge, State.withImpl_length, frameHeader_withImpl, totalSize_withImpl, completion_withImpl]

@[simp] theorem frameOf_withImpl (q : Request) : frameOf (s.withImpl impl).config q = frameOf s.config q := by
  simp only [frameOf, hashBy_withImpl]
  rfl

end Reads

/-! ## Outcomes with their next state changed -/

section Outcomes

variable (g : State → State)

@[simp] theorem mapNext_next (t : State) : mapNext g (.next t) = .next (g t) := rfl

/-- A continuation's change reaches the whole outcome: a read's fault has no next state. -/
@[simp] theorem mapNext_withRead {α : Type} (r : Except Fault α) (k : α → Outcome) :
    mapNext g (withRead r k) = withRead r fun v => mapNext g (k v) := by
  cases r <;> rfl

/-- So does a command's: its refusal has no next state. -/
@[simp] theorem mapNext_withCapacity (s : State) (k : Nat → Outcome) :
    mapNext g (withCapacity s k) = withCapacity s fun cap => mapNext g (k cap) := by
  unfold withCapacity
  cases s.capacity <;> rfl

end Outcomes

/-! ## Every operation commutes with the choice of the engines' form -/

section Operations

variable (impl : HashImpl) (s : State)

@[simp] theorem withCapacity_withImpl (k : Nat → Outcome) : withCapacity (s.withImpl impl) k = withCapacity s k := rfl

theorem answer_withImpl (r : FnResult) :
    answer (s.withImpl impl) r = mapNext (State.withImpl impl) (answer s r) := rfl

theorem returnStatus_withImpl :
    returnStatus (s.withImpl impl) = mapNext (State.withImpl impl) (returnStatus s) := rfl

/-- The status judged after a store is the only place where DECODE meets a hash (R186). -/
theorem execDecode_withImpl (b : Byte) :
    execDecode b (s.withImpl impl) = mapNext (State.withImpl impl) (execDecode b s) := by
  simp only [execDecode, withCapacity_withImpl, mapNext_withCapacity, State.withImpl_status]
  congr 1
  funext cap
  cases s.status with
  | idle =>
    show (if b = s.config.sync then _ else _) = mapNext _ (if b = s.config.sync then _ else _)
    split <;> rfl
  | incomplete =>
    show withRead (storeByte (s.withImpl impl) cap s.length b) _ = mapNext _ (withRead (storeByte s cap s.length b) _)
    by_cases hl : s.length < cap
    · rw [storeByte_ok (s := s.withImpl impl) hl, storeByte_ok hl]
      simp only [withRead_ok, mapNext_withRead]
      rw [show (s.withImpl impl).store s.length b = (s.store s.length b).withImpl impl from rfl, judge_withImpl]
      rfl
    · simp [storeByte, hl, mapNext]
  | valid | errorHash | errorOverflow => rfl

theorem execInit_withImpl (c : BitVec 16) :
    execInit c (s.withImpl impl) = mapNext (State.withImpl impl) (execInit c s) := by
  unfold execInit
  split <;> rfl

theorem execCalchash_withImpl :
    execCalchash (s.withImpl impl) = mapNext (State.withImpl impl) (execCalchash s) := by
  simp only [execCalchash, withCapacity_withImpl, mapNext_withCapacity, State.withImpl_length, frameHeader_withImpl,
    hashSize_withImpl, hashedBytes_withImpl, hashBy_withImpl, apply_ite (mapNext _), mapNext_withRead]
  rfl

theorem execEncapsulate_withImpl (c : BitVec 16) (q : Request) :
    execEncapsulate c q (s.withImpl impl) = mapNext (State.withImpl impl) (execEncapsulate c q s) := by
  simp only [execEncapsulate, totalSize_withImpl, frameOf_withImpl, apply_ite (mapNext _)]
  rfl

theorem getField_withImpl (sel : Option Field) :
    getField sel (s.withImpl impl) = mapNext (State.withImpl impl) (getField sel s) := by
  cases sel with
  | none =>
    show (if s.length < 3 then _ else _) = mapNext _ (if s.length < 3 then _ else _)
    split <;> rfl
  | some fd =>
    simp only [getField, State.withImpl_length, frameHeader_withImpl, Field.place_withImpl, readBytes_withImpl,
      answer_withImpl, apply_ite (mapNext _), mapNext_withRead]

/-- HASH is the one function row whose value passes through the built engines; the other rows left to the last case
answer without reading `HASH_IMPL`. -/
theorem exec_withImpl (i : Instr) : exec i (s.withImpl impl) = mapNext (State.withImpl impl) (exec i s) := by
  cases i with
  | decode b => exact execDecode_withImpl impl s b
  | init c => exact execInit_withImpl impl s c
  | calchash => exact execCalchash_withImpl impl s
  | reset =>
    exact (mapNext_withCapacity (State.withImpl impl) s fun _ => returnStatus s.abandon).symm
  | hash edm d =>
    simp only [exec, execHash, hashBy_withImpl, hashSize_withImpl, answer_withImpl]
  | encapsulate c q => exact execEncapsulate_withImpl impl s c q
  | getfieldHeader => exact getField_withImpl impl s (some .header)
  | getfieldDestAddress => exact getField_withImpl impl s (some .destAddress)
  | getfieldSourceAddress => exact getField_withImpl impl s (some .sourceAddress)
  | getfieldProtocolFlags => exact getField_withImpl impl s (some .protocolFlags)
  | getfieldData => exact getField_withImpl impl s (some .data)
  | getfieldHash => exact getField_withImpl impl s (some .hash)
  | getfieldInvalid => exact getField_withImpl impl s none
  | _ => exact answer_withImpl impl s _

end Operations

/-- Settles O49: the table build of `s` is the table build of its bit-serial build, and every operation commutes with
the choice of the form. -/
theorem hashImplChangesNoResult : Obligations.HashImplChangesNoResult :=
  fun i s => exec_withImpl .table (s.withImpl .bitwise) i

end Sys2Proof.Machine

/-! O20, O1 (10_state.md R23, R32): what writes the capacity, and what hardware reset leaves. -/

namespace Sys2Proof.Machine

/-! ## The capacity -/

/-- R23: DECODE, RESET and CALCHASH, which run on the capacity, do not write it; an INIT writes it only where it is
accepted; the functions do not reach it. -/
theorem exec_capacity_of_not_accepted_init {i : Instr} {s t : State} (h : exec i s = .next t)
    (hi : ∀ c, i = .init c → c.toNat < 3) : t.capacity = s.capacity := by
  cases hcmd : commandInstr i with
  | false =>
    obtain ⟨r, f, n, rfl⟩ := exec_function hcmd h
    rfl
  | true =>
    cases i with
    | decode b =>
      obtain ⟨cap, _, ⟨_, _, rfl⟩ | ⟨_, _, rfl⟩ | ⟨_, _, v, _, rfl⟩ | ⟨_, rfl⟩⟩ := execDecode_cases h <;> simp
    | reset =>
      obtain ⟨_, rfl⟩ := execReset_eq_next h
      simp
    | init c =>
      obtain ⟨_, rfl⟩ | ⟨h3, _⟩ := execInit_cases h
      · simp
      · exact absurd (hi c rfl) (Nat.not_lt.mpr h3)
    | calchash =>
      obtain ⟨_, r, rfl⟩ := execCalchash_eq_next h
      simp
    | _ => simp [commandInstr] at hcmd

/-- R23, R180: an accepted INIT loads the clamped request. -/
theorem exec_init_capacity {c : BitVec 16} {s t : State} (h : exec (.init c) s = .next t) (h3 : 3 ≤ c.toNat) :
    t.capacity = some (min c.toNat s.config.maxFrameSize) := by
  obtain ⟨hlt, _⟩ | ⟨_, rfl⟩ := execInit_cases h
  · exact absurd hlt (Nat.not_lt.mpr h3)
  · simp

/-- In a build the spec covers, a request that is not too small stays within the bounds when it is clamped. -/
theorem clampedCapacity_bounds {c : Config} (hwf : c.wf) {n : Nat} (h3 : 3 ≤ n) :
    3 ≤ min n c.maxFrameSize ∧ min n c.maxFrameSize ≤ c.maxFrameSize ∧ min n c.maxFrameSize ≤ 528 := by
  obtain ⟨hmin, hmax⟩ := hwf
  exact ⟨le_min h3 hmin, min_le_right .., (min_le_right ..).trans hmax⟩

/-- Settles O20, by what an accepted INIT loads and what every other operation keeps. -/
theorem onlyInitWritesTheCapacity : Obligations.OnlyInitWritesTheCapacity := by
  refine ⟨rfl, fun i s t hwf h => ⟨exec_capacity_of_not_accepted_init h, ?_⟩⟩
  rintro c rfl h3
  exact ⟨_, exec_init_capacity h h3, rfl, clampedCapacity_bounds hwf h3⟩

/-! ## Hardware reset -/

/-- The reset input is taken from the queue and resets the block (R32). -/
theorem step_rst {s : State} {q : List Input} (h : s.inputs = .rst :: q) :
    step s = .next (s.setInputs q).hardwareReset := by
  simp [step, h]

/-- Settles O1: power-on by the fields of `State.reset`, the reset input by its step, the refusals by `withCapacity`. -/
theorem hardwareResetGivesIdleAndNoValues : Obligations.HardwareResetGivesIdleAndNoValues := by
  refine ⟨⟨rfl, rfl, rfl, Memory.read_nil⟩, fun s q h => ?_, fun s b h => ?_⟩
  · exact ⟨_, step_rst h, State.hardwareReset_status _, State.hardwareReset_length _, State.hardwareReset_capacity _,
      Memory.read_nil⟩
  · exact ⟨withCapacity_none h _, withCapacity_none h _⟩

end Sys2Proof.Machine

/-! O27 (30_encoding.md R91): a command word's fields are its opcode and its argument, and it has no bit above them. -/

namespace Sys2Proof.Machine

section CommandWord
variable (op : BitVec 2) (arg : BitVec 16)

/-- No bit stands above the 18 of a command word. -/
theorem commandWord_lt : ((0 : BitVec 6) ++ op ++ arg).toNat < 2 ^ 18 := by
  have h : ((0 : BitVec 6) ++ op ++ arg).toNat = op.toNat * 2 ^ 16 + arg.toNat := by
    rw [BitVec.toNat_append, BitVec.toNat_append, ← Nat.shiftLeft_add_eq_or_of_lt arg.isLt, BitVec.ofNat_eq_ofNat,
      BitVec.toNat_zero, Nat.zero_shiftLeft, Nat.zero_or, Nat.shiftLeft_eq]
  have ho := op.isLt
  have ha := arg.isLt
  omega

theorem commandWord_opcode : ((0 : BitVec 6) ++ op ++ arg).extractLsb' 16 2 = op := by
  rw [BitVec.extractLsb'_append_eq_of_le le_rfl, BitVec.extractLsb'_append_eq_of_add_le (by decide),
    ← BitVec.setWidth_eq_extractLsb' (by decide), BitVec.setWidth_eq]

/-- From bit 0 up to any width within the argument, the word is the argument. -/
theorem commandWord_argument {n : Nat} (hn : n ≤ 16) :
    ((0 : BitVec 6) ++ op ++ arg).extractLsb' 0 n = arg.setWidth n := by
  rw [BitVec.extractLsb'_append_eq_of_add_le (by omega), BitVec.setWidth_eq_extractLsb' hn]

end CommandWord

/-- R91's dispatch on the opcode. -/
theorem decodeCommand_commandWord (op : BitVec 2) (arg : BitVec 16) :
    decodeCommand ((0 : BitVec 6) ++ op ++ arg) =
      if op = 0 then .decode (arg.setWidth 8)
      else if op = 1 then .reset
      else if op = 2 then .init arg
      else .calchash := by
  rw [decodeCommand, commandWord_opcode, commandWord_argument op arg (by decide), commandWord_argument op arg le_rfl,
    BitVec.setWidth_eq]
  match op with
  | 0 => rfl
  | 1 => rfl
  | 2 => rfl
  | 3 => rfl

/-- Settles O27: the word comes back whole, is in width, and its opcode picks the command. -/
theorem commandWordsDecodeByOpcode : Obligations.CommandWordsDecodeByOpcode := by
  intro op arg
  rw [decode_packet, decodeWord, inWidth_of_lt _ (commandWord_lt op arg), noOperand, decodeCommand_commandWord]

end Sys2Proof.Machine

/-! O29, O30, O32, O33 (40_header_codec.md): the header bytes as bit fields, and the sum of the regions' widths. -/

namespace Sys2Proof.Machine

/-! ## PACK -/

/-- The seven fields tile the two bytes (30_encoding.md R81 to R83). -/
theorem wordOfHeader_eq_bytes (f : HeaderFields) :
    wordOfHeader f = (f.dab ++ f.sab ++ f.pfb ++ f.ack) ++ (f.cmd ++ f.edm ++ f.ndb) := by
  simp only [wordOfHeader, BitVec.append_assoc', BitVec.cast_eq]

/-- HDB2 is the upper four fields, HDB1 the lower three. -/
theorem packHeader_eq (f : HeaderFields) :
    packHeader f = (f.dab ++ f.sab ++ f.pfb ++ f.ack, f.cmd ++ f.edm ++ f.ndb) := by
  rw [packHeader, wordOfHeader_eq_bytes]
  exact Prod.ext BitVec.extractLsb'_append_eq_left BitVec.extractLsb'_append_eq_right

theorem exec_pack (f : HeaderFields) (s : State) :
    exec (.pack f) s = .next { s with fnResult := .headerBytes (packHeader f).1 (packHeader f).2 } := rfl

/-- Settles O29: each byte is its fields side by side, so its number is their shifted numbers joined. -/
theorem packBuildsTheHeaderBytes : Obligations.PackBuildsTheHeaderBytes := by
  intro s f
  refine ⟨_, _, exec_pack f s, ?_⟩
  simp only [packHeader_eq, BitVec.toNat_append, Nat.shiftLeft_or_distrib, ← Nat.shiftLeft_add, and_self]

/-! ## UNPACK -/

section HeaderWord
variable (hdb2 hdb1 : Byte)

/-- A bit field's number is the word's, shifted and masked. -/
theorem toNat_extractLsb'_eq_and {w : Nat} (x : BitVec w) (i n : Nat) :
    (x.extractLsb' i n).toNat = (x.toNat >>> i) &&& (2 ^ n - 1) := by
  rw [BitVec.extractLsb'_toNat, Nat.and_two_pow_sub_one_eq_mod]

/-- A field above bit 8 lies in HDB2. -/
theorem headerWord_upper (i n : Nat) :
    ((hdb2 ++ hdb1).extractLsb' (8 + i) n).toNat = (hdb2.toNat >>> i) &&& (2 ^ n - 1) := by
  rw [BitVec.extractLsb'_append_eq_of_le (by omega), Nat.add_sub_cancel_left, toNat_extractLsb'_eq_and]

/-- A field below bit 8 lies in HDB1. -/
theorem headerWord_lower (i n : Nat) (h : i + n ≤ 8) :
    ((hdb2 ++ hdb1).extractLsb' i n).toNat = (hdb1.toNat >>> i) &&& (2 ^ n - 1) := by
  rw [BitVec.extractLsb'_append_eq_of_add_le h, toNat_extractLsb'_eq_and]

end HeaderWord

theorem exec_unpack (hdb2 hdb1 : Byte) (s : State) :
    exec (.unpack hdb2 hdb1) s = .next { s with fnResult := .header (unpackHeader hdb2 hdb1) } := rfl

/-- Settles O30: four fields lie in HDB2 and three in HDB1. -/
theorem unpackTakesTheHeaderFields : Obligations.UnpackTakesTheHeaderFields := fun s hdb2 hdb1 =>
  ⟨unpackHeader hdb2 hdb1, exec_unpack hdb2 hdb1 s, headerWord_upper hdb2 hdb1 6 2, headerWord_upper hdb2 hdb1 4 2,
    headerWord_upper hdb2 hdb1 2 2, headerWord_upper hdb2 hdb1 0 2, headerWord_lower hdb2 hdb1 7 1 le_rfl,
    headerWord_lower hdb2 hdb1 4 3 (by decide), headerWord_lower hdb2 hdb1 0 4 (by decide)⟩

/-! ## WIDTHS and TOTALSIZE -/

theorem exec_widths (f : HeaderFields) (s : State) :
    exec (.widths f) s = .next { s with fnResult := .widths (widthsOf s.config f) } := rfl

/-- Settles O32: the answer is `widthsOf`, the fields and the two tables. -/
theorem widthsAreTheFieldsAndTables : Obligations.WidthsAreTheFieldsAndTables := fun s f => exec_widths f s

theorem exec_totalsize (f : HeaderFields) (s : State) :
    exec (.totalsize f) s = .next { s with fnResult := .total (totalSize s.config f) } := rfl

/-- Sync byte and header are always there (R116). -/
theorem three_le_totalSize (c : Config) (f : HeaderFields) : 3 ≤ totalSize c f := by
  rw [totalSize_eq]
  exact (three_le_hashOffset f).trans (Nat.le_add_right ..)

/-- A user hash is no wider than CRC32's (R140). -/
theorem max_four_userHashSize (c : Config) : max 4 c.userHashSize.val = 4 :=
  max_eq_left (Nat.le_of_lt_succ c.userHashSize.isLt)

/-- Every region at its widest (R113). -/
theorem totalSize_le_max (c : Config) (f : HeaderFields) :
    totalSize c f ≤ 3 + 9 + 512 + max 4 c.userHashSize.val := by
  have hdab := f.dab.isLt
  have hsab := f.sab.isLt
  have hpfb := f.pfb.isLt
  have hdata := toSize_le f.ndb
  have hhash := hashSize_le c f.edm
  rw [max_four_userHashSize, totalSize]
  omega

/-- Settles O33: both bounds by the bounds of the regions; an empty frame attains the least, three-byte addresses and
flags with the largest tier and CRC32 the greatest. -/
theorem totalSizeIsTheSumOfTheRegions : Obligations.TotalSizeIsTheSumOfTheRegions := by
  intro s f
  refine ⟨exec_totalsize f s, three_le_totalSize s.config f, totalSize_le_max s.config f, ?_, ?_⟩
  · exact exec_totalsize _ s
  · rw [exec_totalsize, max_four_userHashSize]
    rfl

end Sys2Proof.Machine

/-! O36, O38 (41_size_tier.md R130, R131): the payload bytes of each code, and the least code that holds a size. -/

namespace Sys2Proof.Machine

/-! ## TOSIZE -/

theorem exec_tosize (ndb : BitVec 4) (s : State) :
    exec (.tosize ndb) s = .next { s with fnResult := .payloadWidth (toSize ndb) } := rfl

/-- The direct byte counts (R130). -/
theorem toSize_of_le_eight {ndb : BitVec 4} (h : ndb.toNat ≤ 8) : toSize ndb = ndb.toNat := by
  rw [toSize, if_pos h]

/-- The power-of-two tiers (R130). -/
theorem toSize_of_tier {ndb : BitVec 4} (h9 : 9 ≤ ndb.toNat) (h14 : ndb.toNat ≤ 14) :
    toSize ndb = 16 * 2 ^ (ndb.toNat - 9) := by
  rw [toSize, if_neg (Nat.not_le.mpr h9), if_pos h14]

/-- The code with no payload of its own (R130). -/
theorem toSize_of_gt_fourteen {ndb : BitVec 4} (h : 14 < ndb.toNat) : toSize ndb = 0 := by
  rw [toSize, if_neg (by omega), if_neg (Nat.not_le.mpr h)]

/-- Settles O36, range by range of the code. -/
theorem tosizeGivesTheTier : Obligations.TosizeGivesTheTier := fun s ndb =>
  ⟨toSize ndb, exec_tosize ndb s, toSize_of_le_eight, toSize_of_tier,
    fun h15 => toSize_of_gt_fourteen (h15.symm ▸ Nat.lt_succ_self 14)⟩

/-! ## FROMSIZE -/

theorem exec_fromsize (n : Nat) (s : State) :
    exec (.fromsize n) s = .next { s with fnResult := .tierCode (fromSize n) } := rfl

theorem fromSize_of_gt {n : Nat} (h : 512 < n) : fromSize n = 0 := by
  rw [fromSize, if_pos h]

theorem toNat_fromSize_of_le_eight {n : Nat} (h : n ≤ 8) : (fromSize n).toNat = n := by
  rw [fromSize, if_neg (by omega), if_pos h, BitVec.toNat_ofNat, Nat.mod_eq_of_lt (by omega)]

theorem mem_tierCodes_iff {c : BitVec 4} : c ∈ tierCodes ↔ 9 ≤ c.toNat ∧ c.toNat ≤ 14 := by
  revert c
  decide

/-- The tier codes are listed least first. -/
theorem tierCodes_pairwise_lt : tierCodes.Pairwise fun c c' => c.toNat < c'.toNat := by decide

/-- Above 8 bytes and up to 512 the search of the tiers succeeds, at the largest tier if at no other. -/
theorem find?_tierCodes_eq_fromSize {n : Nat} (h8 : 8 < n) (h512 : n ≤ 512) :
    tierCodes.find? (fun c => decide (n ≤ toSize c)) = some (fromSize n) := by
  have hsome : (tierCodes.find? fun c => decide (n ≤ toSize c)).isSome :=
    List.find?_isSome.mpr ⟨14, by decide, decide_eq_true h512⟩
  obtain ⟨c, hc⟩ := Option.isSome_iff_exists.mp hsome
  rw [fromSize, if_neg (Nat.not_lt.mpr h512), if_neg (Nat.not_le.mpr h8), hc, Option.getD_some]

/-- What a search finds in an ascending list is least among the members it accepts. -/
theorem toNat_le_of_find?_eq_some {w : Nat} {l : List (BitVec w)} {p : BitVec w → Bool} {c c' : BitVec w}
    (hl : l.Pairwise fun c c' => c.toNat < c'.toNat) (hc : l.find? p = some c) (hmem : c' ∈ l) (hp : p c' = true) :
    c.toNat ≤ c'.toNat := by
  obtain ⟨-, before, after, rfl, hbefore⟩ := List.find?_eq_some_iff_append.mp hc
  rw [List.mem_append, List.mem_cons] at hmem
  obtain hin | rfl | hin := hmem
  · exact absurd hp (by simpa using hbefore c' hin)
  · exact le_rfl
  · obtain ⟨-, hafter, -⟩ := List.pairwise_append.mp hl
    exact (List.rel_of_pairwise_cons hafter hin).le

/-- Settles O38: above 512 and up to 8 by the definition's branches, between them by the search of the ascending
tiers. -/
theorem fromsizeGivesTheLeastTier : Obligations.FromsizeGivesTheLeastTier := by
  refine fun s n => ⟨fromSize n, exec_fromsize n s, fromSize_of_gt, toNat_fromSize_of_le_eight, fun h8 h512 => ?_⟩
  have hfind := find?_tierCodes_eq_fromSize h8 h512
  obtain ⟨h9, h14⟩ := mem_tierCodes_iff.mp (List.mem_of_find?_eq_some hfind)
  refine ⟨h9, h14, le_toSize_fromSize h512, fun c' h9' h14' hfits => ?_⟩
  exact toNat_le_of_find?_eq_some tierCodes_pairwise_lt hfind (mem_tierCodes_iff.mpr ⟨h9', h14'⟩)
    (decide_eq_true hfits)

end Sys2Proof.Machine

/-! O13, O40, O48, O50 (42_hash_engine.md): CALCHASH, the hash widths, the two forms of a CRC row, the user hash. -/

namespace Sys2Proof.Machine

/-! ## CALCHASH -/

/-- The hashed bytes of a filled buffer that reaches the hash field (R148). -/
theorem State.Filled.hashedBytes {s : State} (h : s.Filled) {f : HeaderFields} (hl : (offsetsOf f).hash ≤ s.length) :
    Machine.hashedBytes s f = .ok ((s.frameBytes.take (offsetsOf f).hash).drop s.config.hashFirstIndex.val) := by
  have h3 := three_le_hashOffset f
  have hi := s.config.hashFirstIndex.isLt
  rw [Machine.hashedBytes, h.readBytes (by omega), State.slice, List.drop_take]

section Calchash

variable {s : State} {cap : Nat} {f : HeaderFields}

theorem execCalchash_unknownFormat (hc : s.capacity = some cap) (hl : s.length < 3) :
    execCalchash s = .next (s.raise .unknownFormat) := by
  rw [execCalchash, withCapacity_some hc, if_pos hl]

theorem execCalchash_frameFormat (hc : s.capacity = some cap) (hf : frameHeader s = .ok f)
    (h0 : hashSize s.config f.edm = 0) : execCalchash s = .next (s.raise .frameFormat) := by
  obtain ⟨h3, -⟩ := frameHeader_eq_ok hf
  rw [execCalchash, withCapacity_some hc, if_neg (Nat.not_lt.mpr h3), hf, withRead_ok, if_pos h0]

theorem execCalchash_shortFrame (hc : s.capacity = some cap) (hf : frameHeader s = .ok f)
    (h0 : hashSize s.config f.edm ≠ 0) (hl : s.length < (offsetsOf f).hash + hashSize s.config f.edm) :
    execCalchash s = .next (s.raise .shortFrame) := by
  obtain ⟨h3, -⟩ := frameHeader_eq_ok hf
  rw [execCalchash, withCapacity_some hc, if_neg (Nat.not_lt.mpr h3), hf, withRead_ok, if_neg h0, if_pos hl]

/-- Past the three checks, whatever bytes are read are hashed. -/
theorem execCalchash_hash {d : List Byte} {v : Nat} (hc : s.capacity = some cap) (hf : frameHeader s = .ok f)
    (h0 : hashSize s.config f.edm ≠ 0) (hl : (offsetsOf f).hash + hashSize s.config f.edm ≤ s.length)
    (hd : hashedBytes s f = .ok d) (hv : hashBy s.config f.edm d = some v) :
    execCalchash s = .next (s.setCmd (.hash (hashSize s.config f.edm) v)) := by
  obtain ⟨h3, -⟩ := frameHeader_eq_ok hf
  rw [execCalchash, withCapacity_some hc, if_neg (Nat.not_lt.mpr h3), hf, withRead_ok, if_neg h0,
    if_neg (Nat.not_lt.mpr hl), hd, withRead_ok, hv, Option.getD_some]

end Calchash

/-- Settles O13, check by check; a complete hash field means that the hashed bytes are all stored. -/
theorem calchashChecksThenHashes : Obligations.CalchashChecksThenHashes := by
  refine fun s cap hinv hc => ⟨execCalchash_unknownFormat hc, fun f hf =>
    ⟨execCalchash_frameFormat hc hf, execCalchash_shortFrame hc hf, fun h0 hl => ?_⟩⟩
  have hd := State.Filled.hashedBytes hinv.filled (Nat.le_of_add_right_le hl)
  obtain ⟨v, hv⟩ := hashBy_isSome s.config f.edm _ h0
  exact ⟨v, hv, execCalchash_hash hc hf h0 hl hd hv⟩

/-! ## The two forms of a CRC row -/

/-- A row's answer is the same from either form of its engine. -/
theorem hashOf_crcByTable {w : Nat} (hw : 8 ≤ w) (p : CrcParams w) (edm : BitVec 3) (d : List Byte) (s : State) :
    hashOf edm (crcByTable p d).toNat s = hashOf edm (crc p d).toNat s := by
  rw [crcByTable_eq_crc p hw]

/-- Settles O48: the rows by the agreement of the engines' forms, the values by the width of the registers, and HASH
since neither build of `s` hashes differently from `s`. -/
theorem tableFormEqualsBitSerialForm : Obligations.TableFormEqualsBitSerialForm := by
  refine fun s d => ⟨hashOf_crcByTable (by decide) s.config.crc8 3 d s,
    hashOf_crcByTable (by decide) s.config.crc16 4 d s, hashOf_crcByTable (by decide) s.config.crc32 5 d s,
    ⟨_, BitVec.isLt (crcByTable s.config.crc8 d), rfl⟩, ⟨_, BitVec.isLt (crcByTable s.config.crc16 d), rfl⟩,
    ⟨_, BitVec.isLt (crcByTable s.config.crc32 d), rfl⟩, fun edm => ?_⟩
  rw [hashBy_withImpl, hashBy_withImpl]

/-! ## HASHSIZE -/

theorem exec_hashsize (edm : BitVec 3) (s : State) :
    exec (.hashsize edm) s = .next { s with fnResult := .hashWidth (hashSize s.config edm) } := rfl

/-- Settles O40: the answer is `hashSize`, read off its table code by code. -/
theorem hashsizeOfTheEightMethods : Obligations.HashsizeOfTheEightMethods := fun s =>
  ⟨exec_hashsize 0 s, exec_hashsize 1 s, exec_hashsize 2 s, exec_hashsize 3 s, exec_hashsize 4 s, exec_hashsize 5 s,
    exec_hashsize 6 s, exec_hashsize 7 s, hashSize_le s.config 7⟩

/-! ## USERHASH -/

theorem exec_userhash (d : List Byte) (s : State) :
    exec (.userhash d) s =
      .next { s with fnResult := .hash s.config.userHashSize.val (some (userHash s.config d)) } := rfl

/-- A user hash fits its width, as the value of the method with code 7. -/
theorem userHash_lt (c : Config) (d : List Byte) : userHash c d < 256 ^ c.userHashSize.val :=
  hashBy_lt (edm := 7) rfl

/-- The default unit, which answers 0 (R273). -/
theorem userHash_eq_zero {c : Config} (h : c.userHash = .constant 0) (d : List Byte) : userHash c d = 0 := by
  rw [userHash, h, userHashUnit, Nat.zero_mod]

/-- Settles O50: the value is `userHash`, the unit's answer cut to its width. -/
theorem userhashKeepsTheLowBytes : Obligations.UserhashKeepsTheLowBytes := fun s d =>
  ⟨userHash s.config d, exec_userhash d s, rfl, userHash_lt s.config d, fun h => userHash_eq_zero h d⟩

end Sys2Proof.Machine

/-! O3, O4, O5, O7, O8, O9, O10 (44_frame_decoder.md): INIT and RESET, and DECODE status by status. -/

namespace Sys2Proof.Machine

/-! ## INIT and RESET -/

theorem execInit_of_lt {c : BitVec 16} (h : c.toNat < 3) (s : State) :
    execInit c s = .next (s.raise .bufferTooSmall) := if_pos h

theorem execInit_of_le {c : BitVec 16} (h : 3 ≤ c.toNat) (s : State) :
    execInit c s = .next ((s.abandon.setCapacity (min c.toNat s.config.maxFrameSize)).setCmd .ok) :=
  if_neg (Nat.not_lt.mpr h)

/-- Settles O3, by the one test of INIT. -/
theorem initLoadsTheClampedCapacityOrRejects : Obligations.InitLoadsTheClampedCapacityOrRejects := fun s _ =>
  ⟨fun h => execInit_of_lt h s, fun h => execInit_of_le h s⟩

/-- Settles O4, by what a command does with a capacity and without one. -/
theorem resetReturnsToIdle : Obligations.ResetReturnsToIdle := fun _ =>
  ⟨fun _ hc => withCapacity_some hc _, fun hc => withCapacity_none hc _⟩

/-! ## What a DECODE that stores leaves -/

theorem sameRest_store (s : State) (i : Nat) (b : Byte) (v : Status) :
    SameRest s (((s.store i b).enterStatus v).setCmd (.status v)) := ⟨rfl, rfl, rfl, rfl, rfl, rfl⟩

theorem storedByte_store (s : State) (b : Byte) (v : Status) :
    StoredByte s (((s.store s.length b).enterStatus v).setCmd (.status v)) b :=
  ⟨rfl, rfl, fun a => s.buf.read_write s.length a b, sameRest_store s s.length b v⟩

/-! ## DECODE in Idle and in a terminal status -/

/-- Settles O5, by the comparison with the sync value. -/
theorem decodeInIdleWaitsForSync : Obligations.DecodeInIdleWaitsForSync := fun s _ hc hs =>
  ⟨fun _ hb => execDecode_idle_other hc hs hb, _, execDecode_idle_sync hc hs, rfl, rfl, rfl,
    fun a => s.buf.read_write 0 a s.config.sync, sameRest_store s 0 s.config.sync .incomplete⟩

theorem terminal_iff {s : State} :
    s.terminal = true ↔ s.status = .valid ∨ s.status = .errorHash ∨ s.status = .errorOverflow := by
  cases h : s.status <;> simp [State.terminal, terminalStatus, h]

/-- Settles O10, by the terminal arm of DECODE. -/
theorem terminalStatusIgnoresBytes : Obligations.TerminalStatusIgnoresBytes := fun _ _ b hc ht =>
  execDecode_terminal b hc (terminal_iff.mpr ht)

/-- A DECODE that returned a terminal status leaves a state that no further byte changes, its result included. -/
theorem execDecode_terminal_fixed {t : State} {cap : Nat} (b : Byte) (hc : t.capacity = some cap)
    (ht : t.terminal = true) (hr : t.cmdResult = .status t.status) : execDecode b t = .next t := by
  rw [execDecode_terminal b hc ht, ← hr]
  rfl

/-- Overflow is entered from `Incomplete` alone. -/
theorem execDecode_not_overflow {s : State} {cap : Nat} (b : Byte) (hc : s.capacity = some cap)
    (hi : s.status ≠ .incomplete) (ho : s.status ≠ .errorOverflow) :
    ∃ t, execDecode b s = .next t ∧ t.status ≠ .errorOverflow := by
  cases hs : s.status with
  | idle =>
    by_cases hb : b = s.config.sync
    · subst hb
      exact ⟨_, execDecode_idle_sync hc hs, by simp⟩
    · exact ⟨_, execDecode_idle_other hc hs hb, ho⟩
  | incomplete => exact absurd hs hi
  | valid | errorHash =>
    exact ⟨_, execDecode_terminal b hc (terminal_iff.mpr (by simp [hs])), ho⟩
  | errorOverflow => exact absurd hs ho

/-! ## The header and the completion of a filled buffer -/

theorem frameHeader_of_read {s : State} {hdb2 hdb1 : Byte} (h3 : 3 ≤ s.length) (h2 : s.buf.read 1 = some hdb2)
    (h1 : s.buf.read 2 = some hdb1) : frameHeader s = .ok (unpackHeader hdb2 hdb1) := by
  have r1 : readByte s 1 = .ok hdb2 := readByte_eq_ok.mpr ⟨by omega, h2⟩
  have r2 : readByte s 2 = .ok hdb1 := readByte_eq_ok.mpr ⟨by omega, h1⟩
  simp only [frameHeader, r1, r2]

/-- The second header byte completes the header. -/
theorem frameHeader_store_two {s : State} {hdb2 : Byte} (b : Byte) (hl : s.length = 2)
    (h2 : s.buf.read 1 = some hdb2) : frameHeader (s.store s.length b) = .ok (unpackHeader hdb2 b) := by
  apply frameHeader_of_read
  · simp [hl]
  · simp [hl, Memory.read_write, h2]
  · simp [hl]

/-- A byte appended behind the header leaves it. -/
theorem frameHeader_store {s : State} {f : HeaderFields} (b : Byte) (hf : frameHeader s = .ok f) :
    frameHeader (s.store s.length b) = .ok f := by
  obtain ⟨h3, hdb2, hdb1, h2, h1, rfl⟩ := frameHeader_eq_ok hf
  apply frameHeader_of_read
  · simp only [State.store_length]
    omega
  · rwa [State.store_buf, Memory.read_write_other _ _ _ (by omega)]
  · rwa [State.store_buf, Memory.read_write_other _ _ _ (by omega)]

theorem completion_of_no_hash {s : State} {f : HeaderFields} (h0 : hashSize s.config f.edm = 0) :
    completion s f = .ok .valid := if_pos h0

theorem totalSize_sub_hashSize (c : Config) (f : HeaderFields) :
    totalSize c f - hashSize c f.edm = (offsetsOf f).hash := by
  rw [totalSize_eq, Nat.add_sub_cancel]

/-- A frame that is all sync byte and header has no hash (R187). -/
theorem hashSize_eq_zero_of_totalSize_eq_three {c : Config} {f : HeaderFields} (h : totalSize c f = 3) :
    hashSize c f.edm = 0 := by
  have h3 := three_le_hashOffset f
  rw [totalSize_eq] at h
  omega

/-- The stored hash of a complete frame is all that stands from the hash field on (R186). -/
theorem State.Filled.storedHash {s : State} (h : s.Filled) {f : HeaderFields}
    (ht : s.length = totalSize s.config f) :
    Machine.storedHash s f = .ok (s.frameBytes.drop (offsetsOf f).hash) := by
  rw [totalSize_eq] at ht
  rw [Machine.storedHash, h.readBytes ht.ge, State.slice, List.take_of_length_le]
  rw [List.length_drop, h.length_bytes]
  omega

/-- COMPLETE, on the bytes of a filled buffer (R186). -/
theorem State.Filled.completion {s : State} (h : s.Filled) {f : HeaderFields}
    (ht : s.length = totalSize s.config f) :
    Machine.completion s f = .ok
      (if hashSize s.config f.edm = 0 ∨
          hashBy s.config f.edm ((s.frameBytes.take (offsetsOf f).hash).drop s.config.hashFirstIndex.val)
            = some (be (s.frameBytes.drop (offsetsOf f).hash))
        then .valid else .errorHash) := by
  by_cases h0 : hashSize s.config f.edm = 0
  · rw [completion_of_no_hash h0, if_pos (Or.inl h0)]
  · have hd := State.Filled.hashedBytes h (f := f) (by rw [ht, totalSize_eq]; exact Nat.le_add_right ..)
    simp only [Machine.completion, hd, h.storedHash ht, h0, if_false, false_or]

/-! ## The status judged after a byte is appended -/

theorem judge_of_lt_three {s : State} (h : s.length < 3) (cap : Nat) : judge s cap = .ok .incomplete := if_pos h

/-- Overflow is tested before completion (R184). -/
theorem judge_of_header {s : State} {f : HeaderFields} (hf : frameHeader s = .ok f) (cap : Nat) :
    judge s cap =
      if cap < totalSize s.config f then .ok .errorOverflow
      else if s.length = totalSize s.config f then completion s f
      else .ok .incomplete := by
  obtain ⟨h3, -⟩ := frameHeader_eq_ok hf
  rw [judge, if_neg (Nat.not_lt.mpr h3), hf]

/-- No test before the second header byte (R184). -/
theorem judge_store_of_lt_two {s : State} (b : Byte) (hl : s.length < 2) (cap : Nat) :
    judge (s.store s.length b) cap = .ok .incomplete :=
  judge_of_lt_three (Nat.succ_lt_succ hl) cap

/-- On the second header byte only a frame that is all header can be complete (R184). -/
theorem judge_store_of_two {s : State} {hdb2 : Byte} (b : Byte) (hl : s.length = 2)
    (h2 : s.buf.read 1 = some hdb2) (cap : Nat) :
    judge (s.store s.length b) cap = .ok
      (if cap < totalSize s.config (unpackHeader hdb2 b) then .errorOverflow
        else if totalSize s.config (unpackHeader hdb2 b) = 3 then .valid
        else .incomplete) := by
  rw [judge_of_header (frameHeader_store_two b hl h2), State.store_config, State.store_length, hl]
  by_cases hcap : cap < totalSize s.config (unpackHeader hdb2 b)
  · rw [if_pos hcap, if_pos hcap]
  · rw [if_neg hcap, if_neg hcap]
    by_cases h3 : totalSize s.config (unpackHeader hdb2 b) = 3
    · rw [if_pos h3.symm, if_pos h3]
      exact completion_of_no_hash (hashSize_eq_zero_of_totalSize_eq_three h3)
    · rw [if_neg (Ne.symm h3), if_neg h3]

/-- Behind the header the total is known to fit, so only completion is open (R185). -/
theorem judge_store_of_header {s : State} {cap : Nat} {f : HeaderFields} (b : Byte) (hfill : s.Filled)
    (hf : frameHeader s = .ok f) (hfit : totalSize s.config f ≤ cap) :
    judge (s.store s.length b) cap = .ok
      (if s.length + 1 = totalSize s.config f then
        if hashSize s.config f.edm = 0 ∨
            hashBy s.config f.edm
                (((s.frameBytes ++ [b]).take (offsetsOf f).hash).drop s.config.hashFirstIndex.val)
              = some (be ((s.frameBytes ++ [b]).drop (offsetsOf f).hash))
        then .valid
        else .errorHash
      else .incomplete) := by
  obtain ⟨hfill', hbytes⟩ := hfill.store b
  rw [judge_of_header (frameHeader_store b hf), State.store_config, State.store_length,
    if_neg (Nat.not_lt.mpr hfit)]
  by_cases ht : s.length + 1 = totalSize s.config f
  · rw [if_pos ht, if_pos ht, hfill'.completion ht, hbytes]
    rfl
  · rw [if_neg ht, if_neg ht]

/-! ## DECODE in Incomplete -/

section Incomplete

variable {s : State} {cap : Nat} (hinv : FrameInv s) (hc : s.capacity = some cap) (hs : s.status = .incomplete)
include hinv hc hs

/-- The buffer of an incomplete frame has room for a byte: it is appended and the judged status returned. -/
theorem FrameInv.execDecode_of_judge {b : Byte} {v : Status} (hj : judge (s.store s.length b) cap = .ok v) :
    ∃ t, execDecode b s = .next t ∧ StoredByte s t b ∧ t.status = v := by
  obtain ⟨hroom, -⟩ := hinv.incomplete hs cap hc
  exact ⟨_, execDecode_incomplete b hc hs hroom hj, storedByte_store s b v, rfl⟩

/-- A known header of an incomplete frame fits the capacity (R31 d). -/
theorem FrameInv.totalSize_le_capacity {f : HeaderFields} (hf : frameHeader s = .ok f) :
    totalSize s.config f ≤ cap := by
  obtain ⟨h3, -⟩ := frameHeader_eq_ok hf
  obtain ⟨-, hl | ⟨f', hf', -, hfit⟩⟩ := hinv.incomplete hs cap hc
  · exact absurd h3 (Nat.not_le.mpr hl)
  · rw [hf, Except.ok.injEq] at hf'
    exact hf' ▸ hfit

end Incomplete

/-- Every index below `length` has a byte (R24). -/
theorem FrameInv.exists_read {s : State} (hinv : FrameInv s) {i : Nat} (hi : i < s.length) :
    ∃ b, s.buf.read i = some b :=
  ⟨_, (readByte_eq_ok.mp (State.Filled.readByte hinv.filled hi)).2⟩

/-- Settles O7: before the second header byte no test is made, on it the two tests of `judge`. -/
theorem decodeOfTheHeaderBytes : Obligations.DecodeOfTheHeaderBytes := by
  refine fun s cap b hinv hc hs => ⟨fun hl => ?_, fun hl => ?_⟩
  · exact hinv.execDecode_of_judge hc hs (judge_store_of_lt_two b (by omega) cap)
  · obtain ⟨hdb2, h2⟩ := hinv.exists_read (i := 1) (by omega)
    exact ⟨hdb2, h2, hinv.execDecode_of_judge hc hs (judge_store_of_two b hl h2 cap)⟩

/-- Settles O8: the header known to fit, the appended byte is judged for completion alone. -/
theorem decodeAfterTheHeaderDecidesAtTotal : Obligations.DecodeAfterTheHeaderDecidesAtTotal := by
  intro s cap b f hinv hc hs _ hf
  rw [totalSize_sub_hashSize]
  have hfit := hinv.totalSize_le_capacity hc hs hf
  exact hinv.execDecode_of_judge hc hs (judge_store_of_header b hinv.filled hf hfit)

/-! ## Overflow -/

/-- R188: among the bytes of an incomplete frame only the second header byte can be judged an overflow. -/
theorem FrameInv.judge_store_overflow {s : State} {cap : Nat} (hinv : FrameInv s) (hc : s.capacity = some cap)
    (hs : s.status = .incomplete) (b : Byte) :
    ∃ v, judge (s.store s.length b) cap = .ok v ∧
      (v = .errorOverflow ↔
        s.length = 2 ∧ ∃ hdb2, s.buf.read 1 = some hdb2 ∧ cap < totalSize s.config (unpackHeader hdb2 b)) := by
  obtain hl | hl | hl : s.length < 2 ∨ s.length = 2 ∨ 3 ≤ s.length := by omega
  · exact ⟨_, judge_store_of_lt_two b hl cap, by simp [hl.ne]⟩
  · obtain ⟨hdb2, h2⟩ := hinv.exists_read (i := 1) (by omega)
    refine ⟨_, judge_store_of_two b hl h2 cap, ?_⟩
    simp only [hl, h2, true_and, Option.some.injEq, exists_eq_left']
    split_ifs with hcap <;> simp [hcap]
  · have hf := State.Filled.frameHeader hinv.filled hl
    have hfit := hinv.totalSize_le_capacity hc hs hf
    refine ⟨_, judge_store_of_header b hinv.filled hf hfit, ?_⟩
    have hne : s.length ≠ 2 := by omega
    split_ifs <;> simp [hne]

/-- Settles O9: outside `Incomplete` no overflow is entered; inside it the appended byte is judged one exactly on the
second header byte of a frame too large, and the state then left is terminal. -/
theorem overflowExactlyWhereTotalExceedsCapacity : Obligations.OverflowExactlyWhereTotalExceedsCapacity := by
  intro s cap b hinv hc ho
  by_cases hs : s.status = .incomplete
  · obtain ⟨v, hj, hv⟩ := hinv.judge_store_overflow hc hs b
    obtain ⟨t, hexec, ⟨hlen, hres, hread, -, hcap, -⟩, rfl⟩ := hinv.execDecode_of_judge hc hs hj
    refine ⟨t, hexec, by rw [hv, and_iff_right hs], fun hover => ?_⟩
    obtain ⟨hl, -⟩ := hv.mp hover
    rw [hl] at hlen hread
    have hterm : t.terminal = true := terminal_iff.mpr (Or.inr (Or.inr hover))
    exact ⟨hlen, hread, fun b' => execDecode_terminal_fixed b' (hcap.trans hc) hterm hres⟩
  · obtain ⟨t, hexec, hne⟩ := execDecode_not_overflow b hc hs ho
    exact ⟨t, hexec, iff_of_false hne fun h => hs h.1, fun hover => absurd hover hne⟩

end Sys2Proof.Machine

/-! O56, O57 (45_software_collaborators.md R219, R221): REMOVEPADDING cuts the run of zero bytes at one edge. -/

namespace Sys2Proof.Machine

/-- R219: REMOVEPADDING answers in every state, and writes nothing but its result. -/
theorem exec_removepadding (placement : Placement) (p : List Byte) (s : State) :
    exec (.removepadding placement p) s =
      .next { s with fnResult := .trimmed (trimmedLength placement p) (trimmedBytes placement p) } := rfl

/-! ## The zeros at the front of a sequence -/

/-- `dropZeros` cuts at an index with only zeros before it and no zero on it. -/
theorem dropZeros_eq_drop (p : List Byte) :
    ∃ j, j ≤ p.length ∧ dropZeros p = p.drop j ∧ (∀ i, i < j → p[i]? = some 0) ∧ p[j]? ≠ some 0 := by
  induction p with
  | nil => exact ⟨0, by simp [dropZeros]⟩
  | cons b p ih =>
    by_cases hb : b = 0
    · obtain ⟨j, hj, hdrop, hzero, hne⟩ := ih
      refine ⟨j + 1, Nat.succ_le_succ hj, ?_, fun i hi => ?_, hne⟩
      · simpa [dropZeros, hb] using hdrop
      · cases i with
        | zero => simp [hb]
        | succ i => exact hzero i (Nat.lt_of_succ_lt_succ hi)
    · exact ⟨0, by simpa [dropZeros] using hb⟩

/-- Nothing is cut where the first byte is not a zero. -/
theorem dropZeros_of_head?_ne {p : List Byte} (h : p.head? ≠ some 0) : dropZeros p = p := by
  cases p with
  | nil => rfl
  | cons b p => exact List.dropWhile_cons_of_neg (by simpa using h)

/-! ## The length and the bytes left, case by case -/

section Trim
variable {p : List Byte}

theorem trimmedLength_of_le (h : p.length ≤ 8) (placement : Placement) : trimmedLength placement p = p.length :=
  if_pos h

theorem trimmedLength_after (h : 8 < p.length) : trimmedLength .after p = (dropZeros p.reverse).length :=
  if_neg (Nat.not_le.mpr h)

theorem trimmedLength_before (h : 8 < p.length) : trimmedLength .before p = (dropZeros p).length :=
  if_neg (Nat.not_le.mpr h)

theorem trimmedBytes_of_le (h : p.length ≤ 8) (placement : Placement) : trimmedBytes placement p = p.map some :=
  if_pos (Or.inl h)

theorem trimmedBytes_after (p : List Byte) : trimmedBytes .after p = p.map some :=
  if_pos (Or.inr (Or.inl rfl))

theorem trimmedBytes_before_of_zeros (h : dropZeros p = []) : trimmedBytes .before p = p.map some :=
  if_pos (Or.inr (Or.inr h))

theorem trimmedBytes_before (h : 8 < p.length) (hne : dropZeros p ≠ []) :
    trimmedBytes .before p = (dropZeros p).map some ++ List.replicate (p.length - (dropZeros p).length) none :=
  if_neg (by simp [hne, h])

/-- R219, `After`: only zeros from the length answered on, and no zero next to it. -/
theorem trimmedLength_after_spec (h : 8 < p.length) :
    trimmedLength .after p ≤ p.length ∧
    (∀ i, trimmedLength .after p ≤ i → i < p.length → p[i]? = some 0) ∧
    (trimmedLength .after p ≠ 0 → p[trimmedLength .after p - 1]? ≠ some 0) := by
  obtain ⟨j, hj, hdrop, hzero, hne⟩ := dropZeros_eq_drop p.reverse
  rw [List.length_reverse] at hj
  have hr : trimmedLength .after p = p.length - j := by
    rw [trimmedLength_after h, hdrop, List.length_drop, List.length_reverse]
  have hmirror : ∀ i, i < p.length → p[i]? = p.reverse[p.length - 1 - i]? := fun i hi => by
    rw [List.getElem?_reverse (by omega), show p.length - 1 - (p.length - 1 - i) = i by omega]
  rw [hr]
  refine ⟨Nat.sub_le .., fun i hi hip => ?_, fun h0 => ?_⟩
  · rw [hmirror i hip]
    exact hzero _ (by omega)
  · rw [hmirror _ (by omega), show p.length - 1 - (p.length - j - 1) = j by omega]
    exact hne

/-- R219, `Before`: the bytes from the cut on are counted and moved, unless every byte is a zero. -/
theorem trimmed_before_spec (h : 8 < p.length) :
    ∃ j, j ≤ p.length ∧ trimmedLength .before p = p.length - j ∧ (∀ i, i < j → p[i]? = some 0) ∧
      (j = p.length → trimmedBytes .before p = p.map some) ∧
      (j < p.length → p[j]? ≠ some 0 ∧
        trimmedBytes .before p = (p.drop j).map some ++ List.replicate j none) := by
  obtain ⟨j, hj, hdrop, hzero, hne⟩ := dropZeros_eq_drop p
  refine ⟨j, hj, ?_, hzero, fun hall => ?_, fun hlt => ⟨hne, ?_⟩⟩
  · rw [trimmedLength_before h, hdrop, List.length_drop]
  · exact trimmedBytes_before_of_zeros (by rw [hdrop, hall, List.drop_length])
  · have hcut : dropZeros p ≠ [] := by simpa [hdrop] using hlt
    rw [trimmedBytes_before h hcut, hdrop, List.length_drop, Nat.sub_sub_self hj]

/-- R221: with no zero at the padding edge nothing is trimmed. -/
theorem trimmedLength_eq_length {placement : Placement}
    (h : p.length ≤ 8 ∨ (placement = .after ∧ p.getLast? ≠ some 0) ∨ (placement = .before ∧ p.head? ≠ some 0)) :
    trimmedLength placement p = p.length := by
  obtain hle | hgt := le_or_gt p.length 8
  · exact trimmedLength_of_le hle placement
  · obtain hle | ⟨rfl, hlast⟩ | ⟨rfl, hhead⟩ := h
    · exact trimmedLength_of_le hle placement
    · rw [trimmedLength_after hgt, dropZeros_of_head?_ne (by rwa [List.head?_reverse]), List.length_reverse]
    · rw [trimmedLength_before hgt, dropZeros_of_head?_ne hhead]

end Trim

/-- Settles O56, by the cut of `dropZeros`: of the reversed sequence with `After`, of the sequence with `Before`. -/
theorem removepaddingDropsTheZeroEdge : Obligations.RemovepaddingDropsTheZeroEdge := by
  refine fun s placement p => ⟨_, _, exec_removepadding placement p s, fun hle => ?_, ?_, ?_⟩
  · exact ⟨trimmedLength_of_le hle placement, trimmedBytes_of_le hle placement⟩
  · rintro hgt rfl
    exact ⟨trimmedBytes_after p, trimmedLength_after_spec hgt⟩
  · rintro hgt rfl
    exact trimmed_before_spec hgt

/-- Settles O57: the length answered is the sequence's own. -/
theorem removepaddingKeepsATrimmedLength : Obligations.RemovepaddingKeepsATrimmedLength :=
  fun s placement p h => ⟨_, trimmedLength_eq_length h ▸ exec_removepadding placement p s⟩

end Sys2Proof.Machine

/-! O19 (60_exceptions.md R250): the ways out of a terminal status. -/

namespace Sys2Proof.Machine

/-! ## Operations that leave the block -/

/-- A command that writes only its result leaves the block. -/
theorem sameBlock_setCmd (s : State) (r : CmdResult) : SameBlock s (s.setCmd r) := ⟨rfl, rfl, rfl, rfl, fun _ => rfl⟩

/-- So does every operation that is no command (R90). -/
theorem exec_function_sameBlock {i : Instr} {s t : State} (hi : commandInstr i = false) (h : exec i s = .next t) :
    SameBlock s t := by
  obtain ⟨r, f, n, rfl⟩ := exec_function hi h
  exact ⟨rfl, rfl, rfl, rfl, fun _ => rfl⟩

/-- In a terminal status DECODE only returns it (R189). -/
theorem execDecode_eq_next_of_terminal {s t : State} {b : Byte} (ht : s.terminal = true)
    (h : execDecode b s = .next t) : t = s.setCmd (.status s.status) := by
  obtain ⟨cap, hc, -⟩ := withCapacity_eq_next h
  rw [execDecode_terminal b hc ht] at h
  exact (Host.Outcome.next.inj h).symm

/-- R250, R251: in a terminal status DECODE, CALCHASH and a rejected INIT write their result alone, and the functions
never reach the block. -/
theorem exec_sameBlock_of_terminal {i : Instr} {s t : State} (ht : s.terminal = true) (h : exec i s = .next t)
    (hreset : i ≠ .reset) (hinit : ∀ c, i = .init c → c.toNat < 3) : SameBlock s t := by
  cases hcmd : commandInstr i with
  | false => exact exec_function_sameBlock hcmd h
  | true =>
    cases i with
    | decode b =>
      obtain rfl := execDecode_eq_next_of_terminal ht h
      exact sameBlock_setCmd s _
    | reset => exact absurd rfl hreset
    | init c =>
      obtain ⟨_, rfl⟩ | ⟨h3, _⟩ := execInit_cases h
      · exact sameBlock_setCmd s _
      · exact absurd (hinit c rfl) (Nat.not_lt.mpr h3)
    | calchash =>
      obtain ⟨_, r, rfl⟩ := execCalchash_eq_next h
      exact sameBlock_setCmd s r
    | _ => simp [commandInstr] at hcmd

/-! ## The two ways out -/

/-- RESET gives the frame up and keeps the capacity (R181). -/
theorem exec_reset_leaves_idle {s t : State} (h : exec .reset s = .next t) :
    t.status = .idle ∧ t.length = 0 ∧ t.capacity = s.capacity ∧ ∀ a, t.buf.read a = none := by
  obtain ⟨_, rfl⟩ := execReset_eq_next h
  exact ⟨rfl, rfl, rfl, Memory.read_nil⟩

/-- An accepted INIT gives the frame up and loads the capacity (R180). -/
theorem exec_init_leaves_idle {c : BitVec 16} {s t : State} (h : exec (.init c) s = .next t) (h3 : 3 ≤ c.toNat) :
    t.status = .idle ∧ t.length = 0 ∧ t.capacity = some (min c.toNat s.config.maxFrameSize) ∧
      ∀ a, t.buf.read a = none := by
  obtain ⟨hlt, _⟩ | ⟨_, rfl⟩ := execInit_cases h
  · exact absurd hlt (Nat.not_lt.mpr h3)
  · exact ⟨rfl, rfl, rfl, Memory.read_nil⟩

/-- Settles O19: RESET and an accepted INIT give the frame up, every other operation leaves the block. -/
theorem onlyResetAndInitLeaveATerminalStatus : Obligations.OnlyResetAndInitLeaveATerminalStatus := by
  refine fun i s t ht h => ⟨fun ⟨hreset, hinit⟩ => ?_, ?_, ?_⟩
  · obtain ⟨-, hkept⟩ := exec_sameBlock_of_terminal ht h hreset hinit
    exact hkept
  · rintro rfl
    exact exec_reset_leaves_idle h
  · rintro c rfl h3
    exact exec_init_leaves_idle h h3

end Sys2Proof.Machine

/-! O2 (70_reset_and_hazards.md): what the commands do before the first successful INIT. -/

namespace Sys2Proof.Machine

/-- R257 a: the three commands that consult the capacity are refused while there is none. -/
theorem exec_refused_of_no_capacity {s : State} (hc : s.capacity = none) :
    (∀ b, exec (.decode b) s = .refused .notInitialised) ∧ exec .reset s = .refused .notInitialised ∧
      exec .calchash s = .refused .notInitialised :=
  ⟨fun _ => withCapacity_none hc _, withCapacity_none hc _, withCapacity_none hc _⟩

/-- Settles O2: the refusals are those of a block without a capacity, and either arm of INIT shows the capacity it
leaves. -/
theorem commandsWaitForASuccessfulInit : Obligations.CommandsWaitForASuccessfulInit := by
  refine ⟨fun _ hc => exec_refused_of_no_capacity hc, fun s c => ⟨fun h3 => ?_, fun hlt => ?_⟩⟩
  · exact ⟨_, execInit_of_le h3 s, Option.some_ne_none _⟩
  · exact ⟨_, execInit_of_lt hlt s, State.raise_capacity ..⟩

end Sys2Proof.Machine

/-! O16, O15, O17, O21, O24 (10_state.md R31, R36, 20_memory.md R51): what a step can do to the block, and what every
step keeps. -/

namespace Sys2Proof.Machine

/-! ## What an operation can do -/

/-- An operation that goes on is a DECODE, gives the frame up (RESET, an accepted INIT), or writes results alone. -/
theorem exec_cases {i : Instr} {s t : State} (h : exec i s = .next t) :
    (∃ b, i = .decode b ∧ execDecode b s = .next t) ∨
      (i = .reset ∧ t = s.abandon.setCmd (.status .idle)) ∨
      (∃ c, i = .init c ∧ 3 ≤ c.toNat ∧
        t = (s.abandon.setCapacity (min c.toNat s.config.maxFrameSize)).setCmd .ok) ∨
      ∃ c r f n, t = { s with cmdResult := c, fnResult := r, soft := f, freeCount := n } := by
  cases hcmd : commandInstr i with
  | false =>
    obtain ⟨r, f, n, rfl⟩ := exec_function hcmd h
    exact Or.inr (Or.inr (Or.inr ⟨_, r, f, n, rfl⟩))
  | true =>
    cases i with
    | decode b => exact Or.inl ⟨b, rfl, h⟩
    | reset =>
      obtain ⟨_, rfl⟩ := execReset_eq_next h
      exact Or.inr (Or.inl ⟨rfl, rfl⟩)
    | init c =>
      obtain ⟨_, rfl⟩ | ⟨h3, rfl⟩ := execInit_cases h
      · exact Or.inr (Or.inr (Or.inr ⟨_, _, _, _, rfl⟩))
      · exact Or.inr (Or.inr (Or.inl ⟨c, rfl, h3, rfl⟩))
    | calchash =>
      obtain ⟨_, r, rfl⟩ := execCalchash_eq_next h
      exact Or.inr (Or.inr (Or.inr ⟨r, _, _, _, rfl⟩))
    | _ => simp [commandInstr] at hcmd

/-! ## The tests after a store, verdict by verdict -/

section Verdicts

variable {s : State} {cap : Nat}

/-- A completion is one of the two statuses of a complete frame (R186). -/
theorem completion_valid_or_errorHash {f : HeaderFields} {v : Status} (h : completion s f = .ok v) :
    v = .valid ∨ v = .errorHash := by
  obtain ⟨hv, _⟩ | ⟨_, _, _, _, _, ⟨hv, _⟩ | ⟨hv, _⟩⟩ := completion_cases h
  · exact Or.inl hv
  · exact Or.inl hv
  · exact Or.inr hv

theorem judge_ne_idle : judge s cap ≠ .ok .idle := by
  intro h
  obtain ⟨_, hv⟩ | ⟨_, f, _, ⟨_, hv⟩ | ⟨_, _, hv⟩ | ⟨_, _, hv⟩⟩ := judge_cases h
  · cases hv
  · cases hv
  · cases completion_valid_or_errorHash hv <;> contradiction
  · cases hv

/-- The frame goes on: the header is not known, or it fits and its total is not reached. -/
theorem judge_eq_incomplete (h : judge s cap = .ok .incomplete) :
    s.length < 3 ∨
      ∃ f, frameHeader s = .ok f ∧ s.length ≠ totalSize s.config f ∧ totalSize s.config f ≤ cap := by
  obtain ⟨hl, _⟩ | ⟨_, f, hf, ⟨_, hv⟩ | ⟨_, _, hv⟩ | ⟨hfit, hne, _⟩⟩ := judge_cases h
  · exact Or.inl hl
  · cases hv
  · cases completion_valid_or_errorHash hv <;> contradiction
  · exact Or.inr ⟨f, hf, hne, hfit⟩

/-- A complete frame: its total is reached, and the status is that of COMPLETE. -/
theorem judge_eq_complete {v : Status} (hv : v = .valid ∨ v = .errorHash) (h : judge s cap = .ok v) :
    ∃ f, frameHeader s = .ok f ∧ s.length = totalSize s.config f ∧ completion s f = .ok v := by
  obtain ⟨_, rfl⟩ | ⟨_, f, hf, ⟨_, rfl⟩ | ⟨_, hl, hcomp⟩ | ⟨_, _, rfl⟩⟩ := judge_cases h
  · simp at hv
  · simp at hv
  · exact ⟨f, hf, hl, hcomp⟩
  · simp at hv

theorem judge_eq_errorOverflow (h : judge s cap = .ok .errorOverflow) :
    ∃ f, frameHeader s = .ok f ∧ cap < totalSize s.config f := by
  obtain ⟨_, hv⟩ | ⟨_, f, hf, ⟨hcap, _⟩ | ⟨_, _, hv⟩ | ⟨_, _, hv⟩⟩ := judge_cases h
  · cases hv
  · exact ⟨f, hf, hcap⟩
  · cases completion_valid_or_errorHash hv <;> contradiction
  · cases hv

end Verdicts

/-- The tests read `length`, the buffer and the build, not the status that they decide. -/
theorem judge_congr {s t : State} (hcfg : t.config = s.config) (hl : t.length = s.length) (hbuf : t.buf = s.buf)
    (cap : Nat) : judge t cap = judge s cap := by
  have hd : ∀ f, hashedBytes t f = hashedBytes s f := hashedBytes_congr hl hbuf (by rw [hcfg])
  have hst : ∀ f, storedHash t f = storedHash s f := storedHash_congr hl hbuf (by rw [hcfg])
  simp only [judge, completion, frameHeader_congr hl hbuf, hd, hst, hcfg, hl]

/-! ## The invariants of R31 -/

/-- The invariants speak of the block and its build alone. -/
theorem FrameInv.congr {s t : State} (h : FrameInv s) (hcfg : t.config = s.config) (hst : t.status = s.status)
    (hl : t.length = s.length) (hcap : t.capacity = s.capacity) (hbuf : t.buf = s.buf) : FrameInv t := by
  have hfh : frameHeader t = frameHeader s := frameHeader_congr hl hbuf
  have hd : ∀ f, hashedBytes t f = hashedBytes s f := hashedBytes_congr hl hbuf (by rw [hcfg])
  have hst' : ∀ f, storedHash t f = storedHash s f := storedHash_congr hl hbuf (by rw [hcfg])
  obtain ⟨build, filled, uninitialised, bounds, idle, sync, incomplete, completed, valid, errorHash, overflow⟩ := h
  constructor <;> simpa only [hcfg, hst, hl, hcap, hbuf, hfh, hd, hst']

/-- An empty block has them, with or without a capacity (R32, R34). -/
theorem frameInv_of_empty {s : State} (hwf : s.config.wf) (hst : s.status = .idle) (hl : s.length = 0)
    (hbuf : s.buf = []) (hcap : ∀ cap, s.capacity = some cap → 3 ≤ cap ∧ cap ≤ s.config.maxFrameSize) :
    FrameInv s where
  build := hwf
  filled := by rw [hbuf, hl]; rfl
  uninitialised := fun _ => hl
  bounds := fun cap hc => by
    obtain ⟨h3, hmax⟩ := hcap cap hc
    exact ⟨h3, hmax, hl ▸ Nat.zero_le cap⟩
  idle := by simp [hst, hl]
  sync := fun h => by omega
  incomplete := fun h => by simp [hst] at h
  completed := fun h => by simp [hst] at h
  valid := fun h => by simp [hst] at h
  errorHash := fun h => by simp [hst] at h
  overflow := fun h => by simp [hst] at h

/-- Settles O15: reset leaves the block empty, in a build the spec covers. -/
theorem frameInvHoldsAtReset : Obligations.FrameInvHoldsAtReset :=
  frameInv_of_empty (by decide) rfl rfl rfl fun _ h => nomatch h

/-- A filled buffer whose status is the one judged has them, if its header has just come or is known to fit and its
total not to be passed. -/
theorem frameInv_of_judge {t : State} {cap : Nat} (hwf : t.config.wf) (hfill : t.Filled)
    (hc : t.capacity = some cap) (hcap : 3 ≤ cap ∧ cap ≤ t.config.maxFrameSize ∧ t.length ≤ cap)
    (hl : 1 ≤ t.length) (hsync : t.buf.read 0 = some t.config.sync) (hj : judge t cap = .ok t.status)
    (hlen : ∀ f, frameHeader t = .ok f →
      t.length = 3 ∨ (t.length ≤ totalSize t.config f ∧ totalSize t.config f ≤ cap)) : FrameInv t where
  build := hwf
  filled := hfill
  uninitialised := fun h => by simp [hc] at h
  bounds := fun cap' hc' => by
    obtain rfl := Option.some.inj (hc.symm.trans hc')
    exact hcap
  idle := ⟨fun h => absurd (h ▸ hj) judge_ne_idle, fun h => by omega⟩
  sync := fun _ => hsync
  incomplete := fun h cap' hc' => by
    obtain rfl := Option.some.inj (hc.symm.trans hc')
    obtain h3 | ⟨f, hf, hne, hfit⟩ := judge_eq_incomplete (h ▸ hj)
    · exact ⟨by omega, Or.inl h3⟩
    · have h3 := three_le_totalSize t.config f
      have hlt : t.length < totalSize t.config f := by
        obtain hl3 | ⟨hle, _⟩ := hlen f hf <;> omega
      exact ⟨by omega, Or.inr ⟨f, hf, hlt, hfit⟩⟩
  completed := fun h => by
    obtain ⟨f, hf, ht, _⟩ := judge_eq_complete h hj
    exact ⟨(frameHeader_eq_ok hf).1, f, hf, ht⟩
  valid := fun h f hf => by
    obtain ⟨f', hf', _, hcomp⟩ := judge_eq_complete (Or.inl rfl) (h ▸ hj)
    obtain rfl := Except.ok.inj (hf'.symm.trans hf)
    obtain ⟨_, h0⟩ | ⟨_, d, st, hd, hst, ⟨_, he⟩ | ⟨hv, _⟩⟩ := completion_cases hcomp
    · exact Or.inl h0
    · exact Or.inr ⟨d, st, hd, hst, he⟩
    · cases hv
  errorHash := fun h f hf => by
    obtain ⟨f', hf', _, hcomp⟩ := judge_eq_complete (Or.inr rfl) (h ▸ hj)
    obtain rfl := Except.ok.inj (hf'.symm.trans hf)
    obtain ⟨hv, _⟩ | ⟨h0, d, st, hd, hst, ⟨hv, _⟩ | ⟨_, he⟩⟩ := completion_cases hcomp
    · cases hv
    · cases hv
    · exact ⟨Nat.pos_of_ne_zero h0, d, st, hd, hst, he⟩
  overflow := fun h => by
    obtain ⟨f, hf, hlt⟩ := judge_eq_errorOverflow (h ▸ hj)
    refine ⟨?_, fun cap' hc' => ⟨f, hf, by rwa [← Option.some.inj (hc.symm.trans hc')]⟩⟩
    obtain hl3 | ⟨_, hle⟩ := hlen f hf
    · exact hl3
    · omega

/-- A block with the invariants that is idle holds nothing. -/
theorem FrameInv.buf_eq_nil {s : State} (h : FrameInv s) (hs : s.status = .idle) : s.buf = [] := by
  have hf := h.filled
  rw [h.idle.mp hs] at hf
  exact List.map_eq_nil_iff.mp hf

/-- The byte appended to an incomplete frame completes its header, or follows one that fits. -/
theorem FrameInv.length_store_le {s : State} {cap : Nat} (h : FrameInv s) (hc : s.capacity = some cap)
    (hs : s.status = .incomplete) (b : Byte) {f : HeaderFields}
    (hf : frameHeader (s.store s.length b) = .ok f) :
    s.length + 1 = 3 ∨ (s.length + 1 ≤ totalSize s.config f ∧ totalSize s.config f ≤ cap) := by
  obtain ⟨h3, _⟩ := frameHeader_eq_ok hf
  rw [State.store_length] at h3
  obtain ⟨_, hl | ⟨f', hf', hlt, hfit⟩⟩ := h.incomplete hs cap hc
  · exact Or.inl (by omega)
  · obtain rfl := Except.ok.inj ((frameHeader_store b hf').symm.trans hf)
    exact Or.inr ⟨hlt, hfit⟩

/-- DECODE keeps the invariants: it stores the sync byte in an empty buffer, appends a byte and takes the judged
status, or writes its result alone (R182). -/
theorem FrameInv.of_execDecode {s t : State} {b : Byte} (hinv : FrameInv s) (h : execDecode b s = .next t) :
    FrameInv t := by
  obtain ⟨cap, hc, ⟨hs, rfl, rfl⟩ | ⟨_, _, rfl⟩ | ⟨hs, hroom, v, hj, rfl⟩ | ⟨_, rfl⟩⟩ := execDecode_cases h
  · obtain ⟨h3, hmax, _⟩ := hinv.bounds cap hc
    have hbuf : s.buf = [] := hinv.buf_eq_nil hs
    have hfill : (s.store 0 s.config.sync).Filled := by
      simp only [State.Filled, State.store_buf, hbuf]
      rfl
    refine frameInv_of_judge hinv.build hfill hc ⟨h3, hmax, show 1 ≤ cap by omega⟩ le_rfl
      (Memory.read_write_same s.buf 0 _) rfl fun f hf => ?_
    exact absurd (frameHeader_eq_ok hf).1 (show ¬ 3 ≤ 1 by decide)
  · exact hinv.congr rfl rfl rfl rfl rfl
  · obtain ⟨h3, hmax, _⟩ := hinv.bounds cap hc
    have hpos : s.length ≠ 0 := fun h0 => by
      have := hinv.idle.mpr h0
      simp [hs] at this
    have hj' := (judge_congr (s := s.store s.length b)
      (t := ((s.store s.length b).enterStatus v).setCmd (.status v)) rfl rfl rfl cap).trans hj
    refine frameInv_of_judge hinv.build (State.Filled.store hinv.filled b).1 hc ⟨h3, hmax, hroom⟩
      (Nat.le_add_left 1 s.length) ?_ hj' fun f hf => hinv.length_store_le hc hs b hf
    exact (Memory.read_write_other s.buf s.length b hpos.symm).trans (hinv.sync (by omega))
  · exact hinv.congr rfl rfl rfl rfl rfl

/-- Every operation keeps the invariants. -/
theorem FrameInv.of_exec {i : Instr} {s t : State} (hinv : FrameInv s) (h : exec i s = .next t) : FrameInv t := by
  obtain ⟨b, _, hd⟩ | ⟨_, rfl⟩ | ⟨c, _, h3, rfl⟩ | ⟨c, r, f, n, rfl⟩ := exec_cases h
  · exact hinv.of_execDecode hd
  · refine frameInv_of_empty hinv.build rfl rfl rfl fun cap hc => ?_
    obtain ⟨h3, hmax, _⟩ := hinv.bounds cap hc
    exact ⟨h3, hmax⟩
  · refine frameInv_of_empty hinv.build rfl rfl rfl fun cap hc => ?_
    obtain rfl := Option.some.inj hc
    obtain ⟨hmin, hmax, _⟩ := clampedCapacity_bounds hinv.build h3
    exact ⟨hmin, hmax⟩
  · exact hinv.congr rfl rfl rfl rfl rfl

/-- Settles O16: hardware reset leaves the block empty, and every operation keeps the invariants. -/
theorem stepKeepsFrameInv : Obligations.StepKeepsFrameInv := by
  intro s t hinv h
  obtain ⟨q, _, rfl⟩ | ⟨p, q, i, _, _, hexec⟩ := step_cases h
  · exact frameInv_of_empty hinv.build rfl rfl rfl fun _ hc => nomatch hc
  · have hq : FrameInv (s.setInputs q) := hinv.congr rfl rfl rfl rfl rfl
    exact hq.of_exec hexec

/-! ## The canonical form -/

/-- Settles O17: a DECODE writes one byte or none, every other operation keeps the buffer or voids it. -/
theorem stepKeepsMemoryCanonical : Obligations.StepKeepsMemoryCanonical := by
  intro s t hwf h
  obtain ⟨q, _, rfl⟩ | ⟨p, q, i, _, _, hexec⟩ := step_cases h
  · exact State.wf_hardwareReset _
  · obtain ⟨b, _, hd⟩ | ⟨_, rfl⟩ | ⟨c, _, _, rfl⟩ | ⟨c, r, f, n, rfl⟩ := exec_cases hexec
    · obtain ⟨_, _, ⟨_, _, rfl⟩ | ⟨_, _, rfl⟩ | ⟨_, _, v, _, rfl⟩ | ⟨_, rfl⟩⟩ := execDecode_cases hd
      · exact State.wf_store hwf 0 b
      · exact hwf
      · exact State.wf_store hwf s.length b
      · exact hwf
    · exact State.wf_abandon s
    · exact State.wf_abandon s
    · exact hwf

/-! ## The build and the stored bytes -/

/-- R36: no operation writes a parameter. -/
theorem exec_config {i : Instr} {s t : State} (h : exec i s = .next t) : t.config = s.config := by
  obtain ⟨b, _, hd⟩ | ⟨_, rfl⟩ | ⟨c, _, _, rfl⟩ | ⟨c, r, f, n, rfl⟩ := exec_cases h
  · obtain ⟨_, _, ⟨_, _, rfl⟩ | ⟨_, _, rfl⟩ | ⟨_, _, v, _, rfl⟩ | ⟨_, rfl⟩⟩ := execDecode_cases hd <;> rfl
  · rfl
  · rfl
  · rfl

/-- Settles O24: neither hardware reset nor an operation writes a parameter. -/
theorem stepKeepsTheBuild : Obligations.StepKeepsTheBuild := by
  intro s t h
  obtain ⟨q, _, rfl⟩ | ⟨p, q, i, _, _, hexec⟩ := step_cases h
  · rfl
  · exact (exec_config hexec).trans (State.setInputs_config s q)

/-- Settles O21, by what each kind of operation does to the buffer. -/
theorem onlyDecodeStoresABufferByte : Obligations.OnlyDecodeStoresABufferByte := by
  intro i s t h
  obtain ⟨b, rfl, _⟩ | ⟨rfl, rfl⟩ | ⟨c, rfl, h3, rfl⟩ | ⟨c, r, f, n, rfl⟩ := exec_cases h
  · exact Or.inl ⟨b, rfl⟩
  · exact Or.inr (Or.inr ⟨Or.inl rfl, Memory.read_nil⟩)
  · exact Or.inr (Or.inr ⟨Or.inr ⟨c, rfl, h3⟩, Memory.read_nil⟩)
  · exact Or.inr (Or.inl fun _ => rfl)

end Sys2Proof.Machine

/-! O26, O25, O28, O31 (30_encoding.md, 40_header_codec.md R115): the header word and its fields, the packet and its
operation, and the step that runs it. -/

namespace Sys2Proof.Machine

/-! ## The header word -/

/-- Each field of a header word lies where `headerOfWord` reads it (R83). -/
theorem headerOfWord_wordOfHeader (f : HeaderFields) : headerOfWord (wordOfHeader f) = f := by
  obtain ⟨dab, sab, pfb, ack, cmd, edm, ndb⟩ := f
  simp only [headerOfWord, wordOfHeader, HeaderFields.mk.injEq]
  refine ⟨?_, ?_, ?_, ?_, ?_, ?_, ?_⟩
  all_goals
    repeat rw [BitVec.extractLsb'_append_eq_of_le (by decide)]
    simp only [Nat.reduceSub, BitVec.extractLsb'_eq_self, BitVec.extractLsb'_append_eq_right]

/-- The seven fields cover the word. -/
theorem wordOfHeader_headerOfWord (hw : BitVec 16) : wordOfHeader (headerOfWord hw) = hw := by
  simp only [wordOfHeader, headerOfWord]
  iterate 6 rw [BitVec.extractLsb'_append_extractLsb'_eq_extractLsb' (by omega)]
  simp

theorem unpackHeader_packHeader (f : HeaderFields) : unpackHeader (packHeader f).1 (packHeader f).2 = f := by
  rw [unpackHeader, packHeader, bytes16_join, headerOfWord_wordOfHeader]

theorem packHeader_unpackHeader (hdb2 hdb1 : Byte) : packHeader (unpackHeader hdb2 hdb1) = (hdb2, hdb1) := by
  rw [packHeader, unpackHeader, wordOfHeader_headerOfWord]
  exact Prod.ext BitVec.extractLsb'_append_eq_left BitVec.extractLsb'_append_eq_right

/-- Settles O31, by the header word, which the two bytes and the seven fields both make up. -/
theorem packAndUnpackAreInverse : Obligations.PackAndUnpackAreInverse := by
  constructor
  · intro s f hdb2 hdb1 h
    have hbytes : (packHeader f).1 = hdb2 ∧ (packHeader f).2 = hdb1 := by
      simpa [exec_pack] using h
    obtain ⟨rfl, rfl⟩ := hbytes
    rw [exec_unpack, unpackHeader_packHeader]
  · intro s f hdb2 hdb1 h
    have hf : unpackHeader hdb2 hdb1 = f := by simpa [exec_unpack] using h
    rw [← hf, exec_pack, packHeader_unpackHeader]

/-! ## The operands of a packet -/

/-- A word of one field over zeros is its field. -/
theorem extractLsb'_zero_append {m n : Nat} (x : BitVec n) : ((0 : BitVec m) ++ x).extractLsb' 0 n = x :=
  BitVec.extractLsb'_append_eq_right

/-- An address in its four bytes comes back (log 30). -/
theorem toNat_bytes32_join {v : Nat} (h : addressFits v = true) :
    ((BitVec.ofNat 32 v).extractLsb' 24 8 ++ (BitVec.ofNat 32 v).extractLsb' 16 8 ++
      (BitVec.ofNat 32 v).extractLsb' 8 8 ++ (BitVec.ofNat 32 v).extractLsb' 0 8 : BitVec 32).toNat = v := by
  rw [bytes32_join, BitVec.toNat_ofNat]
  exact Nat.mod_eq_of_lt (of_decide_eq_true h)

theorem placementByte_lt (p : Placement) : (p.bit.setWidth 8).toNat < 2 := by cases p <;> decide

theorem placementOfBit_placementByte (p : Placement) :
    placementOfBit ((p.bit.setWidth 8).extractLsb' 0 1) = p := by cases p <;> rfl

/-- ENCAPSULATE's operand bytes come back, whatever its word says of the header fields (log 30). -/
theorem decodeEncapsulate_operands (w : BitVec 24) (cap : BitVec 16) {q : Request} (h : q.wellFormed = true) :
    decodeEncapsulate w (Instr.encapsulate cap q).operands = .ok (.encapsulate cap
      { q with
        dab := w.extractLsb' 10 2, sab := w.extractLsb' 8 2, pfb := w.extractLsb' 6 2,
        ack := w.extractLsb' 4 2, cmd := w.extractLsb' 3 1, edm := w.extractLsb' 0 3 }) := by
  simp only [Request.wellFormed, Bool.and_eq_true] at h
  obtain ⟨⟨⟨hdest, hsource⟩, hflags⟩, hdata⟩ := h
  simp only [Instr.operands, bytes32, bytes16, List.cons_append, List.nil_append, decodeEncapsulate,
    if_pos (placementByte_lt q.placement), bytesOperand_withLength _ hdata, toNat_bytes32_join hdest,
    toNat_bytes32_join hsource, toNat_bytes32_join hflags, bytes16_join, placementOfBit_placementByte]

/-- ENCAPSULATE's word holds the six header fields (R210). -/
theorem encapsulate_word_fields (cap : BitVec 16) (q : Request) :
    (Instr.encapsulate cap q).word.extractLsb' 10 2 = q.dab ∧
      (Instr.encapsulate cap q).word.extractLsb' 8 2 = q.sab ∧
      (Instr.encapsulate cap q).word.extractLsb' 6 2 = q.pfb ∧
      (Instr.encapsulate cap q).word.extractLsb' 4 2 = q.ack ∧
      (Instr.encapsulate cap q).word.extractLsb' 3 1 = q.cmd ∧
      (Instr.encapsulate cap q).word.extractLsb' 0 3 = q.edm := by
  rw [Instr.word]
  refine ⟨?_, ?_, ?_, ?_, ?_, ?_⟩
  all_goals
    repeat rw [BitVec.extractLsb'_append_eq_of_le (by decide)]
    simp only [Nat.reduceSub, BitVec.extractLsb'_append_eq_right]

/-- A size in its 24-bit word comes back (log 29). -/
theorem toNat_fromsize_word {n : Nat} (h : sizeFits n = true) : (Instr.fromsize n).word.toNat = n :=
  (BitVec.toNat_ofNat n 24).trans (Nat.mod_eq_of_lt (of_decide_eq_true h))

theorem decodeCommand_decode_word (b : Byte) : decodeCommand (Instr.decode b).word = .decode b := by
  rw [decodeCommand, Instr.word, BitVec.extractLsb'_append_eq_of_le (by decide), BitVec.extractLsb'_append_eq_right]
  rfl

theorem decodeCommand_init_word (c : BitVec 16) : decodeCommand (Instr.init c).word = .init c := by
  rw [decodeCommand, Instr.word, BitVec.extractLsb'_append_eq_of_le (by decide), BitVec.extractLsb'_append_eq_right]
  rfl

theorem unpack_word_bytes (hdb2 hdb1 : Byte) :
    (Instr.unpack hdb2 hdb1).word.extractLsb' 8 8 = hdb2 ∧ (Instr.unpack hdb2 hdb1).word.extractLsb' 0 8 = hdb1 := by
  constructor
  · rw [Instr.word, BitVec.extractLsb'_append_eq_of_le le_rfl, Nat.sub_self, BitVec.extractLsb'_append_eq_right]
  · exact BitVec.extractLsb'_append_eq_right

/-- The word of a header function is the header word. -/
theorem headerOfWord_zero_append (f : HeaderFields) :
    headerOfWord (((0 : BitVec 8) ++ wordOfHeader f).extractLsb' 0 16) = f := by
  rw [extractLsb'_zero_append, headerOfWord_wordOfHeader]

theorem placementOfBit_removepadding_word (p : Placement) (d : List Byte) :
    placementOfBit ((Instr.removepadding p d).word.extractLsb' 0 1) = p := by cases p <;> rfl

/-! ## A packet and its operation -/

section Rows

variable {width : Nat} {w : BitVec 24} {d : List Byte} {i : Instr}

theorem inWidth_noOperand {j : Instr} (hw : w.toNat < 2 ^ width) (h : j = i) :
    inWidth width w (noOperand [] j) = .ok i := by
  rw [inWidth_of_lt _ hw, noOperand, h]

theorem inWidth_bytesOperand {k : List Byte → Instr} (hw : w.toNat < 2 ^ width) (hd : bytesFit d = true)
    (h : k d = i) : inWidth width w (bytesOperand (withLength d) k) = .ok i := by
  rw [inWidth_of_lt _ hw, bytesOperand_withLength k hd, h]

/-- An edm code row with a hash, by the code in bits 6:4 (R92). -/
theorem decodeWord_edmCode (w : BitVec 24) {k : List Byte → Instr} (hw : w.toNat < 2 ^ 16)
    (hrow : decodeEdm (w.extractLsb' 4 3) (withLength d) = bytesOperand (withLength d) k) (hd : bytesFit d = true) :
    decodeWord .edmCode w (withLength d) = .ok (k d) := by
  rw [decodeWord, hrow, inWidth_bytesOperand hw hd rfl]

end Rows

/-- Settles O26, row by row: the word is in its width, its bits name the row or are its operands, and the operand bytes
come back. The packets of the rows left to the last case are fixed bytes. -/
theorem decodeInvertsEncode : Obligations.DecodeInvertsEncode := by
  intro i h
  rw [encode, decode_packet]
  cases i with
  | decode b => exact inWidth_noOperand (Laws.TableBits.decode b).2 (decodeCommand_decode_word b)
  | init c => exact inWidth_noOperand (Laws.TableBits.init c).2 (decodeCommand_init_word c)
  | unpack hdb2 hdb1 =>
    obtain ⟨h2, h1⟩ := unpack_word_bytes hdb2 hdb1
    exact inWidth_noOperand (Laws.TableBits.unpack hdb2 hdb1).2 (congrArg₂ Instr.unpack h2 h1)
  | pack f => exact inWidth_noOperand (Laws.TableBits.pack f).2 (congrArg _ (headerOfWord_zero_append f))
  | widths f => exact inWidth_noOperand (Laws.TableBits.widths f).2 (congrArg _ (headerOfWord_zero_append f))
  | totalsize f => exact inWidth_noOperand (Laws.TableBits.totalsize f).2 (congrArg _ (headerOfWord_zero_append f))
  | offsets f => exact inWidth_noOperand (Laws.TableBits.offsets f).2 (congrArg _ (headerOfWord_zero_append f))
  | checksum8 d => exact decodeWord_edmCode 0x20 (by decide) rfl h
  | crc8 d => exact decodeWord_edmCode 0x30 (by decide) rfl h
  | crc16 d => exact decodeWord_edmCode 0x40 (by decide) rfl h
  | crc32 d => exact decodeWord_edmCode 0x50 (by decide) rfl h
  | userhash d => exact decodeWord_edmCode 0x70 (by decide) rfl h
  | tosize ndb => exact inWidth_noOperand (Laws.TableBits.tosize ndb).2 (congrArg _ (extractLsb'_zero_append ndb))
  | fromsize n => exact congrArg (Except.ok ∘ Instr.fromsize) (toNat_fromsize_word h)
  | hashsize edm => exact inWidth_noOperand (Laws.TableBits.hashsize edm).2 (congrArg _ (extractLsb'_zero_append edm))
  | hash edm d =>
    exact inWidth_bytesOperand (Laws.TableBits.hash edm d).2 h
      (congrArg (Instr.hash · d) (extractLsb'_zero_append edm))
  | crc8Table d => exact inWidth_bytesOperand (Laws.TableBits.crc8Table d).2 h rfl
  | crc16Table d => exact inWidth_bytesOperand (Laws.TableBits.crc16Table d).2 h rfl
  | crc32Table d => exact inWidth_bytesOperand (Laws.TableBits.crc32Table d).2 h rfl
  | encapsulate cap q =>
    obtain ⟨hdab, hsab, hpfb, hack, hcmd, hedm⟩ := encapsulate_word_fields cap q
    refine (inWidth_of_lt _ (Laws.TableBits.encapsulate cap q).2).trans ((decodeEncapsulate_operands _ cap h).trans ?_)
    rw [hdab, hsab, hpfb, hack, hcmd, hedm]
  | removepadding p d =>
    exact inWidth_bytesOperand (Laws.TableBits.removepadding p d).2 h
      (congrArg (Instr.removepadding · d) (placementOfBit_removepadding_word p d))
  | _ => rfl

/-! ## Steps -/

/-- An operation's packet is taken from the queue and run (log 3). -/
theorem step_op {s : State} {p : List Byte} {q : List Input} {i : Instr} (hq : s.inputs = .op p :: q)
    (hd : decode p = .ok i) : step s = exec i (s.setInputs q) := by
  simp only [step, hq, hd]

theorem decode_tablePacket {nbits w : Nat} {i : Instr} (h : decodeTableWord nbits w = some i) :
    decode (tablePacket nbits w) = .ok i := by
  unfold decodeTableWord at h
  cases hd : decode (tablePacket nbits w) with
  | ok j => simpa [hd] using h
  | error e => simp [hd] at h

/-- Settles O25: the packet first in the queue is decoded and taken; a table word's packet was put there before. -/
theorem stepRunsTheDecodedOperation : Obligations.StepRunsTheDecodedOperation := by
  refine ⟨fun s p q i hq hd => step_op hq hd, fun s p q e hq hd => ?_, fun s nbits w i h => ?_⟩
  · simp only [step, hq, hd]
  · exact step_op (s := s.withFetchWord nbits w) rfl (decode_tablePacket h)

/-- Settles O28: the decoder evaluated on each word. -/
theorem specWordsDecode : Obligations.SpecWordsDecode := ⟨rfl, rfl, rfl, rfl, rfl, rfl, rfl, rfl⟩

end Sys2Proof.Machine

/-! O6, O11, O12, O14 (44_frame_decoder.md R183, R191, 42_hash_engine.md R149): DECODE after DECODE, and CALCHASH on a
complete frame. -/

namespace Sys2Proof.Machine

/-! ## One DECODE -/

theorem sameRest_setCmd (s : State) (r : CmdResult) : SameRest s (s.setCmd r) := ⟨rfl, rfl, rfl, rfl, rfl, rfl⟩

/-- Settles O11: of the four things a DECODE can do, two store a byte, at index 0 from `Idle` and at `length` from
`Incomplete`. -/
theorem decodeStoresAtOneIndexOnly : Obligations.DecodeStoresAtOneIndexOnly := by
  intro s t b h
  obtain ⟨cap, _, ⟨hs, hb, rfl⟩ | ⟨hs, hb, rfl⟩ | ⟨hs, _, v, _, rfl⟩ | ⟨ht, rfl⟩⟩ := execDecode_cases h
  · refine ⟨sameRest_store s 0 b .incomplete, fun a ha => ?_, fun hnone => ?_⟩
    · rw [if_pos hs] at ha
      exact Memory.read_write_other s.buf 0 b ha
    · obtain ⟨_, hne⟩ | ht := hnone
      · exact absurd hb hne
      · simp [State.terminal, hs, terminalStatus] at ht
  · exact ⟨sameRest_setCmd s _, fun _ _ => rfl, fun _ => ⟨rfl, rfl, fun _ => rfl⟩⟩
  · refine ⟨sameRest_store s s.length b v, fun a ha => ?_, fun hnone => ?_⟩
    · rw [if_neg (by simp [hs])] at ha
      exact Memory.read_write_other s.buf s.length b ha
    · simp [State.terminal, hs, terminalStatus] at hnone
  · exact ⟨sameRest_setCmd s _, fun _ _ => rfl, fun _ => ⟨rfl, rfl, fun _ => rfl⟩⟩

/-! ## Feeding bytes -/

theorem feed_cons_of_next {s t : State} {b : Byte} (h : exec (.decode b) s = .next t) (bs : List Byte) :
    feed (b :: bs) s = feed bs t := by
  rw [feed, h]

/-- One more byte than a sequence that has been fed. -/
theorem feed_concat {s t : State} {bs : List Byte} (h : feed bs s = .next t) (b : Byte) :
    feed (bs ++ [b]) s = exec (.decode b) t := by
  induction bs generalizing s with
  | nil =>
    obtain rfl := Host.Outcome.next.inj h
    simp only [List.nil_append, feed]
    cases exec (.decode b) s <;> rfl
  | cons c bs ih =>
    rw [feed] at h
    rw [List.cons_append, feed]
    cases hc : exec (.decode c) s with
    | next u =>
      rw [hc] at h
      exact ih h
    | fault e => simp [hc] at h
    | refused r => simp [hc] at h

/-- Settles O6, by induction over the sequence: each byte leaves the state as the one before it did. -/
theorem noiseBeforeSyncLeavesNoTrace : Obligations.NoiseBeforeSyncLeavesNoTrace := by
  intro s cap bs hc hs hne hbs
  induction bs generalizing s with
  | nil => exact absurd rfl hne
  | cons b bs ih =>
    obtain ⟨hb, hbs'⟩ := List.forall_mem_cons.mp hbs
    rw [feed_cons_of_next (execDecode_idle_other hc hs hb)]
    cases bs with
    | nil => rfl
    | cons b' bs' => exact ih (s.setCmd (.status .idle)) hc hs (List.cons_ne_nil b' bs') hbs'

/-! ## A frame in the buffer -/

/-- The block, of build `c` and capacity `cap`, holds the bytes `p` and meets the invariants. -/
structure Holds (c : Config) (cap : Nat) (p : List Byte) (t : State) : Prop where
  inv : FrameInv t
  config : t.config = c
  capacity : t.capacity = some cap
  bytes : t.frameBytes = p

section Receiving

variable {c : Config} {cap : Nat} {p : List Byte} {t : State}

theorem Holds.length (h : Holds c cap p t) : t.length = p.length := by
  rw [← h.bytes, State.Filled.length_bytes h.inv.filled]

/-- The header is the frame's second and third byte (R30). -/
theorem Holds.frameHeader {sync hdb2 hdb1 : Byte} {rest : List Byte}
    (h : Holds c cap (sync :: hdb2 :: hdb1 :: rest) t) :
    frameHeader t = .ok (unpackHeader hdb2 hdb1) := by
  have hl := h.length
  apply frameHeader_of_read
  · simp [hl]
  · rw [State.Filled.read h.inv.filled, h.bytes]
    rfl
  · rw [State.Filled.read h.inv.filled, h.bytes]
    rfl

/-- R31 read backwards: before the second header byte the status is `Incomplete`. -/
theorem FrameInv.status_of_short (h : FrameInv t) (h1 : 1 ≤ t.length) (h2 : t.length < 3) : t.status = .incomplete := by
  cases hs : t.status with
  | idle =>
    have hzero := h.idle.mp hs
    omega
  | incomplete => rfl
  | valid =>
    obtain ⟨h3, _⟩ := h.completed (Or.inl hs)
    omega
  | errorHash =>
    obtain ⟨h3, _⟩ := h.completed (Or.inr hs)
    omega
  | errorOverflow =>
    obtain ⟨h3, _⟩ := h.overflow hs
    omega

/-- R31 read backwards: the header and the length tell the status, but for whether a hash matches. -/
theorem FrameInv.status_of_header (h : FrameInv t) (hc : t.capacity = some cap) {f : HeaderFields}
    (hf : Machine.frameHeader t = .ok f) :
    (cap < totalSize t.config f → t.status = .errorOverflow) ∧
      (totalSize t.config f ≤ cap → t.length < totalSize t.config f → t.status = .incomplete) ∧
      (totalSize t.config f ≤ cap → t.length = totalSize t.config f → t.status = .valid ∨ t.status = .errorHash) := by
  obtain ⟨h3, _⟩ := frameHeader_eq_ok hf
  obtain ⟨_, _, hle⟩ := h.bounds cap hc
  have complete : t.status = .valid ∨ t.status = .errorHash → t.length = totalSize t.config f := fun hs => by
    obtain ⟨_, f', hf', ht⟩ := h.completed hs
    rwa [Except.ok.inj (hf.symm.trans hf')]
  cases hs : t.status with
  | idle =>
    have hzero := h.idle.mp hs
    omega
  | incomplete =>
    obtain ⟨_, hl | ⟨f', hf', hlt, hfit⟩⟩ := h.incomplete hs cap hc
    · omega
    · obtain rfl := Except.ok.inj (hf.symm.trans hf')
      exact ⟨fun hover => by omega, fun _ _ => rfl, fun _ ht => by omega⟩
  | valid =>
    have ht := complete (Or.inl hs)
    exact ⟨fun hover => by omega, fun _ hlt => by omega, fun _ _ => Or.inl rfl⟩
  | errorHash =>
    have ht := complete (Or.inr hs)
    exact ⟨fun hover => by omega, fun _ hlt => by omega, fun _ _ => Or.inr rfl⟩
  | errorOverflow =>
    obtain ⟨f', hf', hover⟩ := (h.overflow hs).2 cap hc
    obtain rfl := Except.ok.inj (hf.symm.trans hf')
    exact ⟨fun _ => rfl, fun hfit => by omega, fun hfit => by omega⟩

/-- After part of a frame that is not known to be too large the status is `Incomplete`. -/
theorem Holds.incomplete_of_take {sync hdb2 hdb1 : Byte} {rest : List Byte} {k : Nat}
    (h : Holds c cap ((sync :: hdb2 :: hdb1 :: rest).take k) t) (h1 : 1 ≤ k) (hk : k ≤ 3 + rest.length)
    (hfit : 3 ≤ k → totalSize c (unpackHeader hdb2 hdb1) ≤ cap ∧ k < totalSize c (unpackHeader hdb2 hdb1)) :
    t.status = .incomplete ∧ t.length = k := by
  have hl : t.length = k := by
    rw [h.length, List.length_take, Nat.min_eq_left (by simp only [List.length_cons]; omega)]
  refine ⟨?_, hl⟩
  obtain hlt | ⟨j, rfl⟩ : k < 3 ∨ ∃ j, k = j + 3 :=
    (Nat.lt_or_ge k 3).imp_right fun h3 => ⟨k - 3, by omega⟩
  · exact h.inv.status_of_short (by omega) (by omega)
  · obtain ⟨hcap, htotal⟩ := hfit (Nat.le_add_left 3 j)
    rw [← h.config] at hcap htotal
    obtain ⟨_, hincomplete, _⟩ := h.inv.status_of_header h.capacity (Holds.frameHeader h)
    exact hincomplete hcap (by omega)

/-- In `Idle` the sync byte becomes the buffer's only one (R183). -/
theorem Holds.of_sync {s : State} (hinv : FrameInv s) (hc : s.capacity = some cap) (hs : s.status = .idle) :
    ∃ t, exec (.decode s.config.sync) s = .next t ∧ Holds s.config cap [s.config.sync] t := by
  have h := execDecode_idle_sync hc hs
  refine ⟨_, h, hinv.of_execDecode h, rfl, hc, ?_⟩
  simp only [State.frameBytes, State.setCmd_buf, State.enterStatus_buf, State.store_buf, hinv.buf_eq_nil hs]
  rfl

/-- In `Incomplete` the byte is appended (R184, R185). -/
theorem Holds.append (h : Holds c cap p t) (hs : t.status = .incomplete) (b : Byte) :
    ∃ u, exec (.decode b) t = .next u ∧ Holds c cap (p ++ [b]) u := by
  obtain ⟨hroom, _⟩ := h.inv.incomplete hs cap h.capacity
  obtain ⟨hfill, hbytes⟩ := State.Filled.store h.inv.filled b
  obtain ⟨v, hj⟩ := judge_ok hfill cap
  have hexec := execDecode_incomplete b h.capacity hs hroom hj
  exact ⟨_, hexec, h.inv.of_execDecode hexec, h.config, h.capacity, hbytes.trans (by rw [h.bytes])⟩

end Receiving

/-! ## Receiving a frame -/

section Frame

variable {s : State} {cap : Nat} {hdb2 hdb1 : Byte} {rest : List Byte} (hinv : FrameInv s) (hc : s.capacity = some cap)
  (hs : s.status = .idle)
include hinv hc hs

/-- From `Idle` a frame is stored byte by byte: its first three bytes in any case, the others where its total fits. -/
theorem feed_take_holds {k : Nat} (h1 : 1 ≤ k) (hk : k ≤ 3 + rest.length)
    (hfit : 3 < k → totalSize s.config (unpackHeader hdb2 hdb1) ≤ cap ∧
      k ≤ totalSize s.config (unpackHeader hdb2 hdb1)) :
    ∃ t, feed ((s.config.sync :: hdb2 :: hdb1 :: rest).take k) s = .next t ∧
      Holds s.config cap ((s.config.sync :: hdb2 :: hdb1 :: rest).take k) t := by
  induction k, h1 using Nat.le_induction with
  | base =>
    obtain ⟨t, hexec, ht⟩ := Holds.of_sync hinv hc hs
    exact ⟨t, feed_cons_of_next hexec [], ht⟩
  | succ k h1 ih =>
    obtain ⟨t, hfeed, ht⟩ := ih (by omega) fun h3 => by
      have := hfit (by omega)
      omega
    have hlen : k < (s.config.sync :: hdb2 :: hdb1 :: rest).length := by simp only [List.length_cons]; omega
    obtain ⟨hincomplete, _⟩ := ht.incomplete_of_take h1 (by omega) fun h3 => by
      have := hfit (by omega)
      omega
    obtain ⟨u, hexec, hu⟩ := ht.append hincomplete (s.config.sync :: hdb2 :: hdb1 :: rest)[k]
    rw [← List.take_append_getElem hlen]
    exact ⟨u, (feed_concat hfeed _).trans hexec, hu⟩

/-- A frame that fits, fed whole, is stored and judged (R191). -/
theorem feed_frame (hfit : totalSize s.config (unpackHeader hdb2 hdb1) ≤ cap)
    (htotal : 3 + rest.length = totalSize s.config (unpackHeader hdb2 hdb1)) :
    ∃ t, feed (s.config.sync :: hdb2 :: hdb1 :: rest) s = .next t ∧
      Holds s.config cap (s.config.sync :: hdb2 :: hdb1 :: rest) t ∧ (t.status = .valid ∨ t.status = .errorHash) := by
  obtain ⟨t, hfeed, ht⟩ := feed_take_holds hinv hc hs (k := 3 + rest.length) (rest := rest) (by omega) le_rfl
    fun _ => ⟨hfit, htotal.le⟩
  rw [List.take_of_length_le (by simp only [List.length_cons]; omega)] at hfeed ht
  refine ⟨t, hfeed, ht, ?_⟩
  have hl := ht.length
  simp only [List.length_cons] at hl
  rw [← ht.config] at hfit htotal
  obtain ⟨_, _, hcomplete⟩ := ht.inv.status_of_header ht.capacity ht.frameHeader
  exact hcomplete hfit (by omega)

end Frame

/-- Settles O12: after each byte the bytes stored so far, with R31, tell the status. -/
theorem frameTakesItsTotalOfDecodes : Obligations.FrameTakesItsTotalOfDecodes := by
  refine fun s cap hdb2 hdb1 rest hinv hc hs => ⟨fun hfit htotal => ⟨fun k h1 hk => ?_, ?_⟩, fun hover => ?_⟩
  · obtain ⟨t, hfeed, ht⟩ := feed_take_holds hinv hc hs (hdb2 := hdb2) (hdb1 := hdb1) h1 hk.le
      fun _ => ⟨hfit, by omega⟩
    exact ⟨t, hfeed, ht.incomplete_of_take h1 hk.le fun _ => ⟨hfit, by omega⟩⟩
  · obtain ⟨t, hfeed, ht, hstatus⟩ := feed_frame hinv hc hs hfit htotal
    exact ⟨t, hfeed, hstatus, ht.bytes⟩
  · obtain ⟨t, hfeed, ht⟩ := feed_take_holds hinv hc hs (hdb2 := hdb2) (hdb1 := hdb1) (rest := []) (k := 3)
      (by decide) le_rfl fun h => absurd h (lt_irrefl 3)
    obtain ⟨hoverflow, _⟩ := ht.inv.status_of_header ht.capacity (Holds.frameHeader ht)
    rw [← ht.config] at hover
    exact ⟨t, hfeed, hoverflow hover, ht.length⟩

/-! ## CALCHASH on a complete frame -/

/-- Settles O14: what the status says of the hash is R31 (e) and (f), and CALCHASH hashes the same bytes. -/
theorem calchashAgreesWithTheStatus : Obligations.CalchashAgreesWithTheStatus := by
  intro s cap f hinv hc hf h0
  have hcomplete : s.status = .valid ∨ s.status = .errorHash →
      (offsetsOf f).hash + hashSize s.config f.edm = s.length := fun hs => by
    obtain ⟨_, f', hf', ht⟩ := hinv.completed hs
    rw [ht, totalSize_eq, Except.ok.inj (hf.symm.trans hf')]
  have hstored : s.status = .valid ∨ s.status = .errorHash →
      storedHash s f = .ok (s.slice (offsetsOf f).hash (hashSize s.config f.edm)) := fun hs =>
    State.Filled.readBytes hinv.filled (hcomplete hs).le
  refine ⟨fun hs => ?_, fun hs => ?_, fun hs => ?_⟩
  · obtain h | ⟨d, st, hd, hst, hv⟩ := hinv.valid hs f hf
    · exact absurd h h0
    · obtain rfl := Except.ok.inj (hst.symm.trans (hstored (Or.inl hs)))
      exact execCalchash_hash hc hf h0 (hcomplete (Or.inl hs)).le hd hv
  · obtain ⟨_, d, st, hd, hst, hne⟩ := hinv.errorHash hs f hf
    obtain rfl := Except.ok.inj (hst.symm.trans (hstored (Or.inr hs)))
    obtain ⟨v, hv⟩ := hashBy_isSome s.config f.edm d h0
    refine ⟨v, fun he => hne (he ▸ hv), execCalchash_hash hc hf h0 (hcomplete (Or.inr hs)).le hd hv⟩
  · obtain ⟨hl, hover⟩ := hinv.overflow hs
    obtain ⟨f', hf', hlt⟩ := hover cap hc
    obtain rfl := Except.ok.inj (hf.symm.trans hf')
    obtain ⟨hcap3, _, _⟩ := hinv.bounds cap hc
    rw [totalSize_eq] at hlt
    exact execCalchash_shortFrame hc hf h0 (by omega)

end Sys2Proof.Machine

/-! O18, O22, O23, O54, O55, O58, O59 (30_encoding.md R88, R90, 45_software_collaborators.md R214 to R217,
60_exceptions.md R243): the functions, GETFIELD, and the outputs. -/

namespace Sys2Proof.Machine

/-! ## GETFIELD -/

/-- Before the header is stored every selector is answered alike (R215). -/
theorem getField_unknownFormat {s : State} (hl : s.length < 3) (sel : Option Field) :
    getField sel s = answer s (.fieldError .unknownFormat) := if_pos hl

theorem getField_none {s : State} (hl : 3 ≤ s.length) : getField none s = answer s (.fieldError .fieldType) :=
  if_neg (Nat.not_lt.mpr hl)

/-- GETFIELD's steps 3 to 5 for a field of a stored header (R214, R217). -/
def fieldAnswer (s : State) (f : HeaderFields) (fd : Field) : FnResult :=
  if (fd.place s.config f).2 = 0 then .fieldError .frameFormat
  else if s.length < (fd.place s.config f).1 + (fd.place s.config f).2 then .fieldError .shortFrame
  else .field (fd.place s.config f).2
    (fd.value f (s.slice (fd.place s.config f).1 (fd.place s.config f).2))

/-- With the header stored, the validation order of R214 ends in the listed bytes. -/
theorem State.Filled.getField_some {s : State} (h : s.Filled) {f : HeaderFields}
    (hf : Machine.frameHeader s = .ok f) (fd : Field) :
    getField (some fd) s = answer s (fieldAnswer s f fd) := by
  obtain ⟨h3, _⟩ := frameHeader_eq_ok hf
  simp only [getField, if_neg (Nat.not_lt.mpr h3), hf, withRead_ok, fieldAnswer]
  split_ifs with h0 hs
  · rfl
  · rfl
  · rw [h.readBytes (Nat.not_lt.mp hs), withRead_ok]

/-- A stored header is complete (R216). -/
theorem fieldAnswer_header {s : State} {f : HeaderFields} (h3 : 3 ≤ s.length) :
    fieldAnswer s f .header = .field 2 (.header f) :=
  (if_neg (show ¬ 2 = 0 by decide)).trans (if_neg (show ¬ s.length < 1 + 2 by omega))

/-- Settles O54: the first check of GETFIELD and of CALCHASH. -/
theorem queriesBeforeTheHeaderAreUnknownFormat : Obligations.QueriesBeforeTheHeaderAreUnknownFormat := fun _ hl =>
  ⟨getField_unknownFormat hl (some .header), getField_unknownFormat hl (some .destAddress),
    getField_unknownFormat hl (some .sourceAddress), getField_unknownFormat hl (some .protocolFlags),
    getField_unknownFormat hl (some .data), getField_unknownFormat hl (some .hash), getField_unknownFormat hl none,
    fun _ hc => execCalchash_unknownFormat hc hl⟩

/-- Settles O55: `fieldAnswer` at each field's place is the answer stated. -/
theorem getfieldReadsTheField : Obligations.GetfieldReadsTheField := by
  intro s f hinv hf
  obtain ⟨h3, _⟩ := frameHeader_eq_ok hf
  have hfield := State.Filled.getField_some hinv.filled hf
  exact ⟨getField_none h3, (hfield .header).trans (congrArg (answer s) (fieldAnswer_header h3)), hfield .destAddress,
    hfield .sourceAddress, hfield .protocolFlags, hfield .data, hfield .hash⟩

/-! ## Operations that are no commands -/

/-- But for ENCAPSULATE, a function writes its result alone (R90). -/
theorem exec_function_setFn {i : Instr} {s t : State} (hi : commandInstr i = false) (he : ∀ c q, i ≠ .encapsulate c q)
    (h : exec i s = .next t) : ∃ r, t = s.setFn r := by
  cases i with
  | decode | reset | init | calchash => simp [commandInstr] at hi
  | encapsulate c q => exact absurd rfl (he c q)
  | getfieldHeader => exact getField_eq_next (sel := some .header) h
  | getfieldDestAddress => exact getField_eq_next (sel := some .destAddress) h
  | getfieldSourceAddress => exact getField_eq_next (sel := some .sourceAddress) h
  | getfieldProtocolFlags => exact getField_eq_next (sel := some .protocolFlags) h
  | getfieldData => exact getField_eq_next (sel := some .data) h
  | getfieldHash => exact getField_eq_next (sel := some .hash) h
  | getfieldInvalid => exact getField_eq_next (sel := none) h
  | _ => exact ⟨_, answer_eq_next h⟩

/-- Settles O22, by what a function can write. -/
theorem functionsLeaveTheBlockAlone : Obligations.FunctionsLeaveTheBlockAlone := by
  refine fun i s t hi h => ⟨exec_function_sameBlock hi h, ?_, ?_, fun he => ?_⟩
  · obtain ⟨_, _, _, rfl⟩ := exec_function hi h
    rfl
  · obtain ⟨_, _, _, rfl⟩ := exec_function hi h
    rfl
  · obtain ⟨r, rfl⟩ := exec_function_setFn hi he h
    exact ⟨rfl, rfl⟩

/-! ## ENCAPSULATE's test of the total -/

theorem execEncapsulate_of_le {c : BitVec 16} {q : Request} {s : State}
    (h : totalSize s.config (Request.header q) ≤ c.toNat) :
    execEncapsulate c q s = .next ((s.setSoft { status := .valid, bytes := frameOf s.config q }).setFn
      (.encapsulated .valid (totalSize s.config (Request.header q)))) := if_neg (Nat.not_lt.mpr h)

theorem execEncapsulate_of_lt {c : BitVec 16} {q : Request} {s : State}
    (h : c.toNat < totalSize s.config (Request.header q)) :
    execEncapsulate c q s =
      .next (((s.setSoft { status := Config.rejectedStatus s.freeCount, bytes := [] }).countFree).setFn
        (.encapsulated .errorOverflow 0)) := if_pos h

/-- ENCAPSULATE's result is decided by the build and the request (R211). -/
theorem execEncapsulate_fnResult {s s' t : State} {c : BitVec 16} {q : Request} (hc : s.config = s'.config)
    (h : execEncapsulate c q s = .next t) : ∃ t', execEncapsulate c q s' = .next t' ∧ t'.fnResult = t.fnResult := by
  unfold execEncapsulate at h ⊢
  rw [← hc]
  split at h
  · cases h
    exact ⟨_, if_pos ‹_›, rfl⟩
  · cases h
    exact ⟨_, if_neg ‹_›, rfl⟩

/-- Settles O23: ENCAPSULATE by its test of the total, every other function as the answer it computes from its
operands and the build. -/
theorem functionResultsDependOnArgumentsAlone : Obligations.FunctionResultsDependOnArgumentsAlone := by
  intro i s s' t hi hg hc h
  cases i with
  | decode | reset | init | calchash => simp [commandInstr] at hi
  | getfieldHeader | getfieldDestAddress | getfieldSourceAddress | getfieldProtocolFlags | getfieldData | getfieldHash
  | getfieldInvalid => simp [getfieldInstr] at hg
  | encapsulate c q => exact execEncapsulate_fnResult hc h
  | _ =>
    obtain rfl := answer_eq_next h
    refine ⟨_, rfl, ?_⟩
    simp only [State.setFn_fnResult, hc]

/-! ## Every operation runs -/

/-- GETFIELD answers on a filled buffer, with the header or without it. -/
theorem FrameInv.getField_runs {s : State} (hinv : FrameInv s) (sel : Option Field) :
    ∃ t, getField sel s = .next t := by
  by_cases hl : s.length < 3
  · exact ⟨_, getField_unknownFormat hl sel⟩
  · have h3 := Nat.not_lt.mp hl
    cases sel with
    | none => exact ⟨_, getField_none h3⟩
    | some fd => exact ⟨_, State.Filled.getField_some hinv.filled (State.Filled.frameHeader hinv.filled h3) fd⟩

/-- DECODE runs in every status of an initialised block. -/
theorem FrameInv.execDecode_runs {s : State} {cap : Nat} (hinv : FrameInv s) (hc : s.capacity = some cap) (b : Byte) :
    ∃ t, execDecode b s = .next t := by
  cases hs : s.status with
  | idle =>
    by_cases hb : b = s.config.sync
    · exact ⟨_, hb ▸ execDecode_idle_sync hc hs⟩
    · exact ⟨_, execDecode_idle_other hc hs hb⟩
  | incomplete =>
    obtain ⟨v, hj⟩ := judge_ok (State.Filled.store hinv.filled b).1 cap
    exact ⟨_, execDecode_incomplete b hc hs (hinv.incomplete hs cap hc).1 hj⟩
  | valid | errorHash | errorOverflow => exact ⟨_, execDecode_terminal b hc (terminal_iff.mpr (by simp [hs]))⟩

/-- CALCHASH stops at one of its checks or hashes stored bytes (R149). -/
theorem FrameInv.execCalchash_runs {s : State} {cap : Nat} (hinv : FrameInv s) (hc : s.capacity = some cap) :
    ∃ t, execCalchash s = .next t := by
  obtain ⟨hshort, hlong⟩ := calchashChecksThenHashes s cap hinv hc
  by_cases hl : s.length < 3
  · exact ⟨_, hshort hl⟩
  · obtain ⟨f, hf⟩ : ∃ f, frameHeader s = .ok f := ⟨_, State.Filled.frameHeader hinv.filled (Nat.not_lt.mp hl)⟩
    obtain ⟨hformat, hframe, hhash⟩ := hlong f hf
    by_cases h0 : hashSize s.config f.edm = 0
    · exact ⟨_, hformat h0⟩
    · obtain hlt | hle := Nat.lt_or_ge s.length ((offsetsOf f).hash + hashSize s.config f.edm)
      · exact ⟨_, hframe h0 hlt⟩
      · obtain ⟨v, _, hexec⟩ := hhash h0 hle
        exact ⟨_, hexec⟩

/-- Settles O18: with a capacity the commands run; INIT, ENCAPSULATE and the functions run in any case. -/
theorem everyOperationRunsToCompletion : Obligations.EveryOperationRunsToCompletion := by
  intro i s hinv hi
  have hcap : commandInstr i = true → (∀ c, i ≠ .init c) → ∃ cap, s.capacity = some cap := fun hcmd hinit => by
    obtain hne | hfn | ⟨c, hc⟩ := hi
    · exact Option.ne_none_iff_exists'.mp hne
    · simp [hcmd] at hfn
    · exact absurd hc (hinit c)
  cases i with
  | decode b =>
    obtain ⟨cap, hc⟩ := hcap rfl nofun
    exact hinv.execDecode_runs hc b
  | reset =>
    obtain ⟨cap, hc⟩ := hcap rfl nofun
    exact ⟨_, withCapacity_some hc _⟩
  | calchash =>
    obtain ⟨cap, hc⟩ := hcap rfl nofun
    exact hinv.execCalchash_runs hc
  | init c =>
    obtain hlt | hle := Nat.lt_or_ge c.toNat 3
    · exact ⟨_, execInit_of_lt hlt s⟩
    · exact ⟨_, execInit_of_le hle s⟩
  | encapsulate c q =>
    obtain hlt | hle := Nat.lt_or_ge c.toNat (totalSize s.config (Request.header q))
    · exact ⟨_, execEncapsulate_of_lt hlt⟩
    · exact ⟨_, execEncapsulate_of_le hle⟩
  | getfieldHeader => exact hinv.getField_runs (some .header)
  | getfieldDestAddress => exact hinv.getField_runs (some .destAddress)
  | getfieldSourceAddress => exact hinv.getField_runs (some .sourceAddress)
  | getfieldProtocolFlags => exact hinv.getField_runs (some .protocolFlags)
  | getfieldData => exact hinv.getField_runs (some .data)
  | getfieldHash => exact hinv.getField_runs (some .hash)
  | getfieldInvalid => exact hinv.getField_runs none
  | _ => exact ⟨_, rfl⟩

/-! ## The outputs -/

theorem readByte_of_ge {s : State} {i : Nat} (h : s.length ≤ i) : readByte s i = .error (.noValue i) :=
  if_neg (Nat.not_lt.mpr h)

/-- Without both header bytes no header is read (R117). -/
theorem frameHeader_of_short {s : State} (h : s.length < 3) : ∃ e, frameHeader s = .error e := by
  cases hf : frameHeader s with
  | error e => exact ⟨e, rfl⟩
  | ok f => exact absurd (frameHeader_eq_ok hf).1 (Nat.not_le.mpr h)

/-- Settles O58: exactly the indices below `length` are listed, and the header is bytes 1 and 2. -/
theorem portsReadStoredBytesOnly : Obligations.PortsReadStoredBytesOnly := by
  intro s hinv
  have hfill : s.Filled := hinv.filled
  have hlen := hfill.length_bytes
  refine ⟨fun i hi => ?_, fun i hi => readByte_of_ge hi, fun hl => ?_, fun h3 => ?_⟩
  · exact ⟨_, List.getElem?_eq_getElem (hlen.symm ▸ hi), hfill.readByte hi⟩
  · obtain ⟨e, he⟩ := frameHeader_of_short hl
    exact ⟨e, by rw [headerView, he]⟩
  · refine ⟨_, _, List.getElem?_eq_getElem (by omega), List.getElem?_eq_getElem (by omega), ?_⟩
    rw [headerView, hfill.frameHeader h3]

theorem statusCode_le (v : Status) : (statusCode v).toNat ≤ 4 := by cases v <;> decide

theorem errorCode_ne_seven (e : ErrorCode) : errorCode e ≠ 7 := by cases e <;> decide

/-- No result shows 7 (R99). -/
theorem resErrPort_ne_seven (s : State) : resErrPort s ≠ some 7 := by
  unfold resErrPort
  split
  · nofun
  · nofun
  · decide
  · decide
  · exact fun h => errorCode_ne_seven _ (Option.some.inj h)

/-- Settles O59, by the code tables and the two arms of INIT. -/
theorem outputCodesFollowTheTables : Obligations.OutputCodesFollowTheTables :=
  ⟨rfl, rfl, rfl, rfl, rfl, fun s => statusCode_le s.status, rfl, rfl, rfl, rfl, rfl, rfl, resErrPort_ne_seven,
    fun s _ h => ⟨_, execInit_of_lt h s, rfl⟩, fun s _ h => ⟨_, execInit_of_le h s, rfl⟩⟩

end Sys2Proof.Machine

/-! O34, O35, O37, O39, O41 (40_header_codec.md R114, R116, 41_size_tier.md R132, 30_encoding.md R92, R93): the layout
of a header, the laws of the tier table, and the code rows. -/

namespace Sys2Proof.Machine

/-! ## The layout -/

/-- Settles O34: the answer is `offsetsOf`, the widths before each region summed up. -/
theorem offsetsFollowEachOther : Obligations.OffsetsFollowEachOther := fun _ _ => rfl

/-- The hash field begins at its latest behind three-byte addresses and flags and the largest tier (R116). -/
theorem hashOffset_le (f : HeaderFields) : (offsetsOf f).hash ≤ 524 := by
  have hdab := f.dab.isLt
  have hsab := f.sab.isLt
  have hpfb := f.pfb.isLt
  have hdata := toSize_le f.ndb
  simp only [offsetsOf]
  omega

theorem totalSize_le (c : Config) (f : HeaderFields) : totalSize c f ≤ 528 := by
  have hmax := totalSize_le_max c f
  rw [max_four_userHashSize] at hmax
  exact hmax

/-- Settles O35: each region begins behind the one before it, and the hash field ends the frame. -/
theorem headerLayoutIsBounded : Obligations.HeaderLayoutIsBounded := fun c f =>
  ⟨three_le_totalSize c f, totalSize_le c f, le_rfl, Nat.le_add_right .., Nat.le_add_right .., Nat.le_add_right ..,
    Nat.le_add_right .., totalSize_eq c f ▸ Nat.le_add_right .., hashOffset_le f, totalSize_eq c f⟩

/-! ## The tier table -/

/-- The code of a tier's size is the tier's code (R132). -/
theorem fromSize_toSize {c : BitVec 4} (h : c.toNat ≤ 14) : fromSize (toSize c) = c := by
  revert c
  decide

/-- FROMSIZE picks a tier of exactly its size, code 15 included, whose size code 0 has (R132). -/
theorem toSize_fromSize_toSize (c : BitVec 4) : toSize (fromSize (toSize c)) = toSize c := by
  obtain h | h := Nat.lt_or_ge 14 c.toNat
  · rw [toSize_of_gt_fourteen h]
    rfl
  · rw [fromSize_toSize h]

/-- A larger tier code is a larger size (R132). -/
theorem toSize_lt_toSize {c c' : BitVec 4} (h : c.toNat < c'.toNat) (h14 : c'.toNat ≤ 14) : toSize c < toSize c' := by
  revert c c'
  decide

/-- Above 8 bytes FROMSIZE answers a tier code, and none larger than a tier code that is enough (R131). -/
theorem fromSize_least_tier {n : Nat} (h8 : 8 < n) (h512 : n ≤ 512) :
    9 ≤ (fromSize n).toNat ∧ (fromSize n).toNat ≤ 14 ∧
      ∀ c : BitVec 4, 9 ≤ c.toNat → c.toNat ≤ 14 → n ≤ toSize c → (fromSize n).toNat ≤ c.toNat := by
  obtain ⟨c, hexec, _, _, htier⟩ := fromsizeGivesTheLeastTier State.reset n
  obtain rfl : fromSize n = c := by simpa [exec_fromsize] using hexec
  obtain ⟨h9, h14, _, hleast⟩ := htier h8 h512
  exact ⟨h9, h14, hleast⟩

/-- A larger size needs no smaller code (R132): up to 8 the code is the size, and a tier that is enough for the larger
size is enough for the smaller one. -/
theorem fromSize_mono {m n : Nat} (hmn : m ≤ n) (h512 : n ≤ 512) : (fromSize m).toNat ≤ (fromSize n).toNat := by
  obtain hm | hm := Nat.lt_or_ge 8 m
  · obtain ⟨h9, h14, _⟩ := fromSize_least_tier (hm.trans_le hmn) h512
    obtain ⟨_, _, hleast⟩ := fromSize_least_tier hm (hmn.trans h512)
    exact hleast _ h9 h14 (hmn.trans (le_toSize_fromSize h512))
  · rw [toNat_fromSize_of_le_eight hm]
    obtain hn | hn := Nat.lt_or_ge 8 n
    · obtain ⟨h9, _⟩ := fromSize_least_tier hn h512
      omega
    · rwa [toNat_fromSize_of_le_eight hn]

/-- Settles O39, law by law. -/
theorem tierTableLaws : Obligations.TierTableLaws := by
  refine ⟨fun n h512 => ⟨le_toSize_fromSize h512, fun h => ⟨_, h⟩, ?_⟩, fun n => fromSize_of_gt,
    fun m n => fromSize_mono, fun c => fromSize_toSize, rfl, fun c c' => toSize_lt_toSize⟩
  rintro ⟨c, rfl⟩
  exact toSize_fromSize_toSize c

/-! ## The code rows -/

/-- Settles O37: each row answers TOSIZE of its code. -/
theorem ndbCodesGiveTheirPayload : Obligations.NdbCodesGiveTheirPayload := fun _ =>
  ⟨rfl, rfl, rfl, rfl, rfl, rfl, rfl, rfl, rfl, rfl, rfl, rfl, rfl, rfl, rfl, rfl⟩

/-- Settles O41: HASHSIZE of codes 0, 1 and 6 is 0. -/
theorem methodsWithoutAHash : Obligations.MethodsWithoutAHash := fun _ => ⟨rfl, rfl, rfl⟩

end Sys2Proof.Machine

/-! O42 to O47, O51 (42_hash_engine.md R142 to R147, 43_hash_tables.md): the engines' registers as naturals, the listed
tables, and HASH. -/

namespace Sys2Proof.Machine

/-! ## CHECKSUM8 -/

/-- The register holds the sum so far, modulo 256. -/
theorem toNat_foldl_add (acc : Byte) (d : List Byte) :
    (d.foldl (fun acc b => acc + b) acc).toNat = (acc.toNat + (d.map BitVec.toNat).sum) % 256 := by
  induction d generalizing acc with
  | nil => exact (Nat.mod_eq_of_lt acc.isLt).symm
  | cons b d ih =>
    rw [List.foldl_cons, ih, BitVec.toNat_add, List.map_cons, List.sum_cons]
    omega

theorem exec_checksum8 (d : List Byte) (s : State) :
    exec (.checksum8 d) s = .next { s with fnResult := .hash 1 (some (checksum8 s.config d).toNat) } := rfl

/-- Settles O42, by induction over the bytes. -/
theorem checksum8IsTheSumModulo256 : Obligations.Checksum8IsTheSumModulo256 := by
  intro s d h0
  rw [exec_checksum8, checksum8, h0, toNat_foldl_add]
  simp

/-! ## The bit-serial CRC on naturals -/

/-- A fold on registers is the fold on their numbers. -/
theorem toNat_foldl {w : Nat} {step : BitVec w → Byte → BitVec w} {step' : Nat → Byte → Nat}
    (h : ∀ acc b, (step acc b).toNat = step' acc.toNat b) (d : List Byte) (acc : BitVec w) :
    (d.foldl step acc).toNat = d.foldl step' acc.toNat :=
  (List.foldl_hom BitVec.toNat fun acc b => (h acc b).symm).symm

/-- Eight bit shifts of a register are the pseudocode's eight steps. -/
theorem toNat_crcShifts_eight {w : Nat} {p : CrcParams w} {g : Nat → Nat}
    (h : ∀ c, (crcShift p c).toNat = g c.toNat) (c : BitVec w) :
    (crcShifts p 8 c).toNat = Reference.eight g c.toNat := by
  simp only [crcShifts, h, Reference.eight]

/-- One bit of a reflected engine (R143, R145). -/
theorem toNat_crcShift_reflected {w : Nat} {p : CrcParams w} (hp : p.reflected = true) (c : BitVec w) :
    (crcShift p c).toNat = Reference.reflectedBit p.feedback.toNat c.toNat := by
  have hbit : c.getLsbD 0 = decide (c.toNat % 2 = 1) := by
    rw [BitVec.getLsbD, Nat.testBit_zero]
  rw [crcShift, if_pos hp, hbit, Reference.reflectedBit]
  simp only [decide_eq_true_eq]
  split_ifs <;> simp

/-- A byte of a reflected engine. -/
theorem toNat_crcStep_reflected {w : Nat} {p : CrcParams w} (hw : 8 ≤ w) (hp : p.reflected = true) (acc : BitVec w)
    (b : Byte) :
    (crcStep p acc b).toNat = Reference.eight (Reference.reflectedBit p.feedback.toNat) (acc.toNat ^^^ b.toNat) := by
  rw [crcStep, toNat_crcShifts_eight (toNat_crcShift_reflected hp), BitVec.toNat_xor, crcAlign, if_pos hp,
    BitVec.toNat_setWidth_of_le hw]

/-- One bit of the CRC-16 (R144). -/
theorem toNat_crcShift_forward {p : CrcParams 16} (hp : p.reflected = false) (hf : p.feedback = 0x1021)
    (c : BitVec 16) : (crcShift p c).toNat = Reference.forwardBit c.toNat := by
  have hbit : c.msb = decide ((c.toNat >>> 15) % 2 = 1) := by
    rw [BitVec.msb_eq_getLsbD_last, BitVec.getLsbD, Nat.testBit_eq_decide_div_mod_eq, Nat.shiftRight_eq_div_pow]
  have hmask : ∀ x, x &&& 0xFFFF = x % 2 ^ 16 := fun x => Nat.and_two_pow_sub_one_eq_mod x 16
  rw [crcShift, if_neg (by simp [hp]), hbit, hf, Reference.forwardBit]
  simp only [decide_eq_true_eq, hmask, Nat.xor_mod_two_pow]
  split_ifs <;> simp

theorem exec_crc8 (d : List Byte) (s : State) :
    exec (.crc8 d) s = .next { s with fnResult := .hash 1 (some (crc s.config.crc8 d).toNat) } := rfl

theorem exec_crc16 (d : List Byte) (s : State) :
    exec (.crc16 d) s = .next { s with fnResult := .hash 2 (some (crc s.config.crc16 d).toNat) } := rfl

theorem exec_crc32 (d : List Byte) (s : State) :
    exec (.crc32 d) s = .next { s with fnResult := .hash 4 (some (crc s.config.crc32 d).toNat) } := rfl

/-- A byte sequence through a reflected engine. -/
theorem toNat_crc_reflected {w : Nat} {p : CrcParams w} (hw : 8 ≤ w) (hp : p.reflected = true) (d : List Byte) :
    (crc p d).toNat =
      d.foldl (fun acc b => Reference.eight (Reference.reflectedBit p.feedback.toNat) (acc ^^^ b.toNat)) p.init.toNat
        ^^^ p.xorout.toNat := by
  rw [crc, BitVec.toNat_xor]
  congr 1
  exact toNat_foldl (toNat_crcStep_reflected hw hp) d p.init

/-- The bit-serial CRC-8 of a byte sequence is R143's. -/
theorem toNat_crc_crc8 (d : List Byte) : (crc Config.standard.crc8 d).toNat = Reference.crc8 d :=
  (toNat_crc_reflected (by decide) rfl d).trans (Nat.xor_zero _)

/-- Settles O43: a reflected engine with nothing exclusive-ored in at the end. -/
theorem crc8FollowsItsBitRule : Obligations.Crc8FollowsItsBitRule := by
  intro s d hp
  rw [exec_crc8, hp, toNat_crc_crc8]

/-- The bit-serial CRC-32 is R145's. -/
theorem toNat_crc_crc32 (d : List Byte) : (crc Config.standard.crc32 d).toNat = Reference.crc32 d :=
  toNat_crc_reflected (by decide) rfl d

/-- Settles O45: a reflected engine. -/
theorem crc32FollowsItsBitRule : Obligations.Crc32FollowsItsBitRule := by
  intro s d hp
  rw [exec_crc32, hp, toNat_crc_crc32]

/-- A byte of the CRC-16 enters at the high end. -/
theorem toNat_crcStep_forward {p : CrcParams 16} (hp : p.reflected = false) (hf : p.feedback = 0x1021)
    (acc : BitVec 16) (b : Byte) :
    (crcStep p acc b).toNat = Reference.eight Reference.forwardBit (acc.toNat ^^^ (b.toNat <<< 8)) := by
  have hb : b.toNat <<< 8 < 2 ^ 16 := by
    rw [Nat.shiftLeft_eq]
    exact Nat.mul_lt_mul_of_pos_right b.isLt (by decide)
  rw [crcStep, toNat_crcShifts_eight (toNat_crcShift_forward hp hf), BitVec.toNat_xor, crcAlign, if_neg (by simp [hp]),
    BitVec.toNat_shiftLeft, BitVec.toNat_setWidth_of_le (by decide), Nat.mod_eq_of_lt hb]

/-- The bit-serial CRC-16 is R144's. -/
theorem toNat_crc_crc16 (d : List Byte) : (crc Config.standard.crc16 d).toNat = Reference.crc16 d := by
  rw [crc, BitVec.toNat_xor]
  exact (Nat.xor_zero _).trans (toNat_foldl (toNat_crcStep_forward rfl rfl) d _)

/-- Settles O44: the one engine that is not reflected. -/
theorem crc16FollowsItsBitRule : Obligations.Crc16FollowsItsBitRule := by
  intro s d hp
  rw [exec_crc16, hp, toNat_crc_crc16]

/-! ## The listed tables -/

/-- The entries of T8, computed (R170). -/
theorem t8_getElem? (i : Byte) : t8[i.toNat]? = some (crcEntry Config.standard.crc8 i) := by
  revert i
  decide +kernel

/-- The entries of T16, computed (R171). -/
theorem t16_getElem? (i : Byte) : t16[i.toNat]? = some (crcEntry Config.standard.crc16 i) := by
  revert i
  decide +kernel

/-- The entries of T32, computed (R172). -/
theorem t32_getElem? (i : Byte) : t32[i.toNat]? = some (crcEntry Config.standard.crc32 i) := by
  revert i
  decide +kernel

/-- Settles O46, table by table. -/
theorem listedTablesFollowTheGeneratingRule : Obligations.ListedTablesFollowTheGeneratingRule :=
  ⟨by decide +kernel, by decide +kernel, by decide +kernel, t8_getElem?, t16_getElem?, t32_getElem?⟩

/-! ## The table-driven CRC on naturals -/

section TableStep

variable {w : Nat} {p : CrcParams w} {table : List (BitVec w)}
  (htable : ∀ i : Byte, table[i.toNat]? = some (crcEntry p i))
include htable

/-- Reading a listed table is computing the entry. -/
theorem getD_eq_crcEntry (i : Byte) : table.getD i.toNat 0 = crcEntry p i := by
  rw [List.getD_eq_getElem?_getD, htable, Option.getD_some]

/-- A byte of a reflected engine, by its table (R173, R175). -/
theorem toNat_crcTableStep_reflected (hw : 8 ≤ w) (hp : p.reflected = true) (acc : BitVec w) (b : Byte) :
    (crcTableStep p acc b).toNat =
      (acc.toNat >>> 8) ^^^ (table.getD ((acc.toNat ^^^ b.toNat) &&& 0xFF) 0).toNat := by
  have hindex : ((acc ^^^ b.setWidth w).setWidth 8).toNat = (acc.toNat ^^^ b.toNat) &&& 0xFF := by
    rw [BitVec.toNat_setWidth, BitVec.toNat_xor, BitVec.toNat_setWidth_of_le hw]
    exact (Nat.and_two_pow_sub_one_eq_mod _ 8).symm
  rw [crcTableStep, if_pos hp, BitVec.toNat_xor, BitVec.toNat_ushiftRight, ← hindex, getD_eq_crcEntry htable]

end TableStep

/-- In the CRC-8 nothing of the register is left to shift, and the index is in the table as it is. -/
theorem toNat_crcTableStep_crc8 (acc : BitVec 8) (b : Byte) :
    (crcTableStep Config.standard.crc8 acc b).toNat = (t8.getD (acc.toNat ^^^ b.toNat) 0).toNat := by
  have hshift : acc.toNat >>> 8 = 0 := by
    rw [Nat.shiftRight_eq_div_pow]
    exact Nat.div_eq_of_lt acc.isLt
  have hindex : (acc.toNat ^^^ b.toNat) &&& 0xFF = acc.toNat ^^^ b.toNat :=
    (Nat.and_two_pow_sub_one_eq_mod _ 8).trans (Nat.mod_eq_of_lt (Nat.xor_lt_two_pow acc.isLt b.isLt))
  rw [toNat_crcTableStep_reflected t8_getElem? le_rfl rfl, hshift, hindex, Nat.zero_xor]

/-- A byte of the CRC-16, by its table (R174). -/
theorem toNat_crcTableStep_crc16 (acc : BitVec 16) (b : Byte) :
    (crcTableStep Config.standard.crc16 acc b).toNat =
      ((acc.toNat <<< 8) &&& 0xFFFF) ^^^ (t16.getD ((acc.toNat >>> 8) ^^^ b.toNat) 0).toNat := by
  have hhigh : acc.toNat >>> 8 < 2 ^ 8 := by
    rw [Nat.shiftRight_eq_div_pow]
    exact Nat.div_lt_of_lt_mul acc.isLt
  have hindex : ((acc >>> (16 - 8)).setWidth 8 ^^^ b).toNat = (acc.toNat >>> 8) ^^^ b.toNat := by
    rw [BitVec.toNat_xor, BitVec.toNat_setWidth, BitVec.toNat_ushiftRight, Nat.mod_eq_of_lt hhigh]
  rw [crcTableStep, if_neg (by decide), BitVec.toNat_xor, BitVec.toNat_shiftLeft, ← hindex,
    getD_eq_crcEntry t16_getElem?]
  congr 1
  exact (Nat.and_two_pow_sub_one_eq_mod _ 16).symm

/-- The table-driven CRC-8 of a byte sequence is R173's. -/
theorem toNat_crcByTable_crc8 (d : List Byte) :
    (crcByTable Config.standard.crc8 d).toNat = Reference.crc8ByTable d := by
  rw [crcByTable, BitVec.toNat_xor]
  exact (Nat.xor_zero _).trans (toNat_foldl toNat_crcTableStep_crc8 d _)

/-- The table-driven CRC-16 is R174's. -/
theorem toNat_crcByTable_crc16 (d : List Byte) :
    (crcByTable Config.standard.crc16 d).toNat = Reference.crc16ByTable d := by
  rw [crcByTable, BitVec.toNat_xor]
  exact (Nat.xor_zero _).trans (toNat_foldl toNat_crcTableStep_crc16 d _)

/-- The table-driven CRC-32 is R175's. -/
theorem toNat_crcByTable_crc32 (d : List Byte) :
    (crcByTable Config.standard.crc32 d).toNat = Reference.crc32ByTable d := by
  rw [crcByTable, BitVec.toNat_xor]
  congr 1
  exact toNat_foldl (toNat_crcTableStep_reflected t32_getElem? (by decide) rfl) d _

theorem exec_crc8Table (d : List Byte) (s : State) :
    exec (.crc8Table d) s = .next { s with fnResult := .hash 1 (some (crcByTable s.config.crc8 d).toNat) } := rfl

theorem exec_crc16Table (d : List Byte) (s : State) :
    exec (.crc16Table d) s = .next { s with fnResult := .hash 2 (some (crcByTable s.config.crc16 d).toNat) } := rfl

theorem exec_crc32Table (d : List Byte) (s : State) :
    exec (.crc32Table d) s = .next { s with fnResult := .hash 4 (some (crcByTable s.config.crc32 d).toNat) } := rfl

/-- Settles O47: byte by byte a table read, with the listed entry. -/
theorem tableRowsReadTheListedTables : Obligations.TableRowsReadTheListedTables := by
  refine fun s d => ⟨fun hp => ?_, fun hp => ?_, fun hp => ?_⟩
  · rw [exec_crc8Table, hp, toNat_crcByTable_crc8]
  · rw [exec_crc16Table, hp, toNat_crcByTable_crc16]
  · rw [exec_crc32Table, hp, toNat_crcByTable_crc32]

/-! ## HASH -/

/-- HASH answers a method's width and value (R147). -/
theorem exec_hash (edm : BitVec 3) (d : List Byte) (s : State) :
    exec (.hash edm d) s =
      .next { s with fnResult := .hash (hashSize s.config edm) (hashBy s.config edm d) } := rfl

/-- The value of a CRC method is that of the bit-serial engine, whichever form is built in (R8). -/
theorem hashBy_crc (c : Config) (d : List Byte) :
    hashBy c 3 d = some (crc c.crc8 d).toNat ∧ hashBy c 4 d = some (crc c.crc16 d).toNat ∧
      hashBy c 5 d = some (crc c.crc32 d).toNat := by
  refine ⟨?_, ?_, ?_⟩
  · rw [← crcBuilt_eq_crc _ (by decide) c.hashImpl]
    rfl
  · rw [← crcBuilt_eq_crc _ (by decide) c.hashImpl]
    rfl
  · rw [← crcBuilt_eq_crc _ (by decide) c.hashImpl]
    rfl

/-- Settles O51, code by code. -/
theorem hashDispatchesOnTheMethod : Obligations.HashDispatchesOnTheMethod := by
  intro s d
  obtain ⟨h3, h4, h5⟩ := hashBy_crc s.config d
  refine ⟨rfl, ?_, ?_, ?_, rfl, ?_, fun edm => ⟨_, exec_hash edm d s⟩⟩
  · rw [exec_hash, h3]
    rfl
  · rw [exec_hash, h4]
    rfl
  · rw [exec_hash, h5]
    rfl
  · rintro edm (rfl | rfl | rfl) <;> rfl

end Sys2Proof.Machine

/-! O52, O53 (45_software_collaborators.md R211, R212, 44_frame_decoder.md R192): the frame ENCAPSULATE lays out, and
what the block and GETFIELD make of it. -/

namespace Sys2Proof.Machine

/-! ## The frame of a request -/

section Layout

variable (c : Config) (q : Request)

/-- The payload region is the padded data (R211). -/
theorem payload_eq_paddedData : Request.payload q = Reference.paddedData q (toSize (fromSize q.data.length)) := by
  unfold Request.payload Request.header Reference.paddedData
  by_cases h : q.data.length ≤ toSize (fromSize q.data.length)
  · rw [if_pos h, if_neg (Nat.not_lt.mpr h)]
    cases q.placement <;> rfl
  · rw [if_neg h, if_pos (Nat.not_le.mp h)]

theorem body_eq_requestBody : Request.body q = Reference.requestBody q := by
  rw [Request.body, payload_eq_paddedData]
  rfl

/-- The payload region has its tier's size: data that fit no tier are dropped, and their code's size is 0 (R131). -/
theorem length_payload : (Request.payload q).length = toSize (fromSize q.data.length) := by
  unfold Request.payload Request.header
  by_cases h : q.data.length ≤ toSize (fromSize q.data.length)
  · rw [if_pos h]
    cases q.placement <;> simp <;> omega
  · have h512 : 512 < q.data.length := Nat.lt_of_not_le fun hle => h (le_toSize_fromSize hle)
    rw [if_neg h, fromSize_of_gt h512]
    rfl

/-- The sync byte and `body` reach up to the hash. -/
theorem length_sync_body : (c.sync :: Request.body q).length = (offsetsOf (Request.header q)).hash := by
  simp only [Request.body, List.length_cons, List.length_append, List.length_nil, length_bytesBE, length_payload,
    offsetsOf]
  simp only [Request.header]
  omega

/-- The hash bytes of a request's frame. -/
def hashField : List Byte :=
  bytesBE ((hashBy c q.edm (hashInput c (Request.body q))).getD 0) (hashSize c q.edm)

theorem length_hashField : (hashField c q).length = hashSize c q.edm := length_bytesBE ..

theorem frameOf_eq_append : frameOf c q = (c.sync :: Request.body q) ++ hashField c q := rfl

theorem length_frameOf : (frameOf c q).length = totalSize c (Request.header q) := by
  rw [frameOf_eq_append, List.length_append, length_sync_body, length_hashField, totalSize_eq]
  rfl

/-- A frame region by region. -/
theorem frameOf_eq_regions :
    frameOf c q = [c.sync, (packHeader (Request.header q)).1, (packHeader (Request.header q)).2] ++
      (bytesBE q.destAddress q.dab.toNat ++ (bytesBE q.sourceAddress q.sab.toNat ++
        (bytesBE q.protocolFlags q.pfb.toNat ++ (Request.payload q ++ hashField c q)))) := by
  simp [frameOf_eq_append, Request.body]

/-- With a hash, the hash bytes are the method's value over the hashed range. -/
theorem hashField_of_hash (h0 : hashSize c q.edm ≠ 0) :
    ∃ v, hashBy c q.edm (hashInput c (Request.body q)) = some v ∧ hashField c q = bytesBE v (hashSize c q.edm) ∧
      be (hashField c q) = v := by
  obtain ⟨v, hv⟩ := hashBy_isSome c q.edm (hashInput c (Request.body q)) h0
  have hfield : hashField c q = bytesBE v (hashSize c q.edm) := by rw [hashField, hv, Option.getD_some]
  refine ⟨v, hv, hfield, ?_⟩
  rw [hfield, be_bytesBE, Nat.mod_eq_of_lt (hashBy_lt hv)]

theorem hashField_of_no_hash (h0 : hashSize c q.edm = 0) : hashField c q = [] := by
  rw [hashField, h0, bytesBE]

/-- The range `HASH_FIRST_INDEX` picks (R274). -/
theorem hashInput_eq (body : List Byte) :
    hashInput c body = if c.hashFirstIndex = 1 then body else c.sync :: body := by
  rw [hashInput]
  match c.hashFirstIndex with
  | 0 => rfl
  | 1 => rfl

end Layout

/-! ## ENCAPSULATE -/

/-- Settles O52, by the one test of ENCAPSULATE and the layout of `frameOf`. -/
theorem encapsulateLaysTheFrameOut : Obligations.EncapsulateLaysTheFrameOut := by
  refine fun s c q => ⟨fun hfit => ⟨frameOf s.config q, execEncapsulate_of_le hfit, length_frameOf s.config q,
    fun h0 => ?_, fun h0 => ?_⟩, fun hover => ⟨_, execEncapsulate_of_lt hover⟩⟩
  · rw [frameOf_eq_append, hashField_of_no_hash _ _ h0, body_eq_requestBody, List.append_nil]
  · obtain ⟨v, hv, hfield, _⟩ := hashField_of_hash s.config q h0
    rw [hashInput_eq, body_eq_requestBody] at hv
    exact ⟨v, hv, by rw [frameOf_eq_append, hfield, body_eq_requestBody]⟩

/-! ## The frame received -/

/-- A frame received whole, of a request of the same build, is `Valid`: its hash field is the hash of its bytes
(R192 a). -/
theorem Holds.valid_of_frameOf {c : Config} {cap : Nat} {q : Request} {u : State} (h : Holds c cap (frameOf c q) u)
    (hf : Machine.frameHeader u = .ok (Request.header q)) (hs : u.status = .valid ∨ u.status = .errorHash) :
    u.status = .valid := by
  obtain hs | hs := hs
  · exact hs
  · exfalso
    obtain ⟨hpos, d, st, hd, hst, hne⟩ := h.inv.errorHash hs _ hf
    rw [h.config] at hpos hne
    have hlen : u.length = totalSize u.config (Request.header q) := by
      rw [h.length, length_frameOf, h.config]
    have hfill : u.Filled := h.inv.filled
    have hhash : (offsetsOf (Request.header q)).hash ≤ u.length := by
      rw [hlen, totalSize_eq]
      exact Nat.le_add_right ..
    rw [hfill.hashedBytes hhash, h.bytes, h.config, frameOf_eq_append, List.take_left' (length_sync_body c q),
      Except.ok.injEq] at hd
    rw [hfill.storedHash hlen, h.bytes, frameOf_eq_append, List.drop_left' (length_sync_body c q),
      Except.ok.injEq] at hst
    obtain ⟨v, hv, _, hbe⟩ := hashField_of_hash c q (Nat.pos_iff_ne_zero.mp hpos)
    apply hne
    rw [← hd, ← hst, hbe]
    exact hv

section Received

variable {s : State} {cap : Nat} {q : Request}

/-- From `Idle`, where it fits, the frame of a request is received as `Valid`, with the request's header (R192 a). -/
theorem feed_frameOf (hinv : FrameInv s) (hc : s.capacity = some cap) (hs : s.status = .idle)
    (hfit : totalSize s.config (Request.header q) ≤ cap) :
    ∃ u, feed (frameOf s.config q) s = .next u ∧ Holds s.config cap (frameOf s.config q) u ∧
      frameHeader u = .ok (Request.header q) ∧ u.status = .valid := by
  have hlen := length_frameOf s.config q
  rw [← unpackHeader_packHeader (Request.header q)] at hlen hfit
  rw [frameOf_eq_regions, List.length_append] at hlen
  obtain ⟨u, hfeed, hu, hstatus⟩ := feed_frame hinv hc hs hfit hlen
  have hf := hu.frameHeader
  rw [unpackHeader_packHeader] at hf
  have hregions := frameOf_eq_regions s.config q
  have hu' : Holds s.config cap (frameOf s.config q) u := hregions ▸ hu
  exact ⟨u, hregions ▸ hfeed, hu', hf, hu'.valid_of_frameOf hf hstatus⟩

end Received

section Fields

variable {s : State} {f : HeaderFields} (h : s.Filled) (hf : frameHeader s = .ok f) {fd : Field}
  {before after : List Byte} {n : Nat} (hplace : fd.place s.config f = (before.length, n)) (h0 : n ≠ 0)
include h hf hplace h0

/-- GETFIELD on bytes that the buffer is known to hold. -/
theorem getField_of_append {bytes : List Byte} (hbytes : s.frameBytes = before ++ (bytes ++ after))
    (hn : bytes.length = n) : getField (some fd) s = answer s (.field n (fd.value f bytes)) := by
  subst hn
  have hl : before.length + bytes.length ≤ s.length := by
    rw [← h.length_bytes, hbytes]
    simp
  have hslice : s.slice before.length bytes.length = bytes := by
    rw [State.slice, hbytes, List.drop_left, List.take_left]
  rw [h.getField_some hf, fieldAnswer, hplace, if_neg h0, if_neg (Nat.not_lt.mpr hl), hslice]

/-- GETFIELD on a number held big-endian gives its low-order bytes back (R217). -/
theorem getField_of_bytesBE {v : Nat} (hbytes : s.frameBytes = before ++ (bytesBE v n ++ after))
    (hfd : ∀ bytes, fd.value f bytes = .number (be bytes)) :
    getField (some fd) s = answer s (.field n (.number (v % 256 ^ n))) := by
  rw [getField_of_append h hf hplace h0 hbytes (length_bytesBE v n), hfd, be_bytesBE]

end Fields

/-- Settles O53: the frame is received whole, and GETFIELD finds each region where the frame has it. -/
theorem encapsulateThenFeedIsValid : Obligations.EncapsulateThenFeedIsValid := by
  intro s c cap q hinv hc hs hfitc hfit
  have hexec := execEncapsulate_of_le hfitc
  have hinv' := hinv.of_exec (i := .encapsulate c q) hexec
  obtain ⟨u, hfeed, hu, hf, hvalid⟩ := feed_frameOf hinv' hc hs hfit
  have hfill : u.Filled := hu.inv.filled
  have hbytes := hu.bytes.trans (frameOf_eq_regions _ q)
  have hwidth : ∀ {b : BitVec 2}, b ≠ 0 → b.toNat ≠ 0 := fun h0 hz => h0 (BitVec.eq_of_toNat_eq hz)
  refine ⟨_, u, hexec, rfl, hfeed, hvalid, ?_, fun h0 => ?_, fun h0 => ?_, fun h0 => ?_, fun h0 => ?_⟩
  · obtain ⟨_, hheader, _⟩ := getfieldReadsTheField u _ hu.inv hf
    exact hheader
  · exact getField_of_bytesBE hfill hf (fd := .destAddress) rfl (hwidth h0) hbytes fun _ => rfl
  · rw [← List.append_assoc] at hbytes
    refine getField_of_bytesBE hfill hf (fd := .sourceAddress) (Prod.ext ?_ rfl) (hwidth h0) hbytes fun _ => rfl
    rw [List.length_append, length_bytesBE]
    rfl
  · rw [← List.append_assoc, ← List.append_assoc] at hbytes
    refine getField_of_bytesBE hfill hf (fd := .protocolFlags) (Prod.ext ?_ rfl) (hwidth h0) hbytes fun _ => rfl
    rw [List.length_append, List.length_append, length_bytesBE, length_bytesBE]
    rfl
  · rw [← List.append_assoc, ← List.append_assoc, ← List.append_assoc] at hbytes
    rw [← payload_eq_paddedData]
    refine getField_of_append hfill hf (fd := .data) (Prod.ext ?_ rfl) h0 hbytes (length_payload q)
    rw [List.length_append, List.length_append, List.length_append, length_bytesBE, length_bytesBE, length_bytesBE]
    rfl

end Sys2Proof.Machine
